-- ==== Sys2Proof/Word.lean ====
section
/-! DEFINITION. The bit-vector types of the engine (00_scope.md R7, R9): data words, bytes, control words,
memory addresses, micro-addresses and register indices. -/

namespace Sys2Proof

/-- A data word: registers, MAR, MBR, memory cells, status registers (R7, 10_state.md R20). -/
abbrev Word := BitVec 16

/-- A serial byte (10_state.md R41). -/
abbrev Byte := BitVec 8

/-- An encoded microinstruction (30_encoding.md R100). -/
abbrev ControlWord := BitVec 32

/-- A word address of data memory (20_memory.md R60). -/
abbrev Addr := BitVec 12

/-- An index into the control store (10_state.md R31, R34). -/
abbrev MicroAddr := BitVec 8

/-- An index into the register file (10_state.md R20). -/
abbrev RegIx := BitVec 4

end Sys2Proof
end

