-- ==== Sys2Proof/Config.lean ====
section
/-! DEFINITION. The parameters an implementation of the engine fixes (00_scope.md R8; 92_eei_decisions.md, "Named
parameters"). The source leaves each open and the spec takes each as a named argument of the model, so that a claim
holds for every value or names the one it assumes. The values of the spec's reference machine stand in
Machine/Reference.lean. -/

namespace Sys2Proof

/-- REG_INDEX (10_state.md R21, D2): the index of each fixed role. Every index no role has is a scratch register. -/
structure RegIndex where
  pc    : RegIx
  ac    : RegIx
  sp    : RegIx
  ir    : RegIx
  tir   : RegIx
  zero  : RegIx
  one   : RegIx
  mone  : RegIx
  amask : RegIx
  smask : RegIx
  deriving DecidableEq, Repr

/-- The ten role indices, in the source's listing order (R21). -/
def RegIndex.roles (r : RegIndex) : List RegIx :=
  [r.pc, r.ac, r.sp, r.ir, r.tir, r.zero, r.one, r.mone, r.amask, r.smask]

/-- The five registers no Step writes (R21, "written by Step?", and R23). -/
def RegIndex.constants (r : RegIndex) : List RegIx :=
  [r.zero, r.one, r.mone, r.amask, r.smask]

/-- SH3_POLICY (41_alu_shifter.md R170, D10): what a Step with SH = 3 does. -/
inductive Sh3Policy where
  | fault
  | noShift
  deriving DecidableEq, Repr

/-- CONST_WRITE_POLICY (40_datapath.md R145, D11): what a register write to a constant register does. -/
inductive ConstWritePolicy where
  | fault
  | discard
  deriving DecidableEq, Repr

/-- RDWR_HALT_POINT (43_memory_requests.md R207, D9): how much of a Step with RD = WR = 1 takes effect. -/
inductive RdWrHaltPoint where
  | afterSequencing
  | discardAll
  | complete
  deriving DecidableEq, Repr

/-- RESET_UNLISTED (70_reset_and_hazards.md R292, D14): what Reset does to state its list does not name. -/
inductive ResetUnlisted where
  | preserve
  | zero
  deriving DecidableEq, Repr

/-- TX_STATUS_READ (20_memory.md R64, D16): what the transmitter status address is. -/
inductive TxStatusRead where
  | live
  | backing
  deriving DecidableEq, Repr

/-- Every open parameter of R8. -/
structure Params where
  regIndex         : RegIndex
  amaskValue       : Word
  smaskValue       : Word
  spReset          : Word
  rxDataAddr       : Addr
  rxStatusAddr     : Addr
  txDataAddr       : Addr
  txStatusAddr     : Addr
  enableBit        : Fin 16
  readyBit         : Fin 16
  enableCode       : Word
  sh3Policy        : Sh3Policy
  constWritePolicy : ConstWritePolicy
  rdwrHaltPoint    : RdWrHaltPoint
  resetUnlisted    : ResetUnlisted
  txStatusRead     : TxStatusRead
  rxqCap           : Nat
  txqCap           : Nat
  deriving DecidableEq, Repr

/-- The four device addresses, in the source's listing order (20_memory.md R62). -/
def Params.deviceAddrs (p : Params) : List Addr :=
  [p.rxDataAddr, p.rxStatusAddr, p.txDataAddr, p.txStatusAddr]

/-- The domains the spec gives the parameters: distinct role indices (D2), four distinct addresses (R62), two distinct
bit positions (D6), capacities of at least 1 (D22). -/
def Params.wf (p : Params) : Bool :=
  decide p.regIndex.roles.Nodup && decide p.deviceAddrs.Nodup && decide (p.enableBit ≠ p.readyBit)
    && decide (1 ≤ p.rxqCap) && decide (1 ≤ p.txqCap)

end Sys2Proof
end

