-- ==== Sys2Proof/Machine/Reference.lean ====
section
/-! DEFINITION. The spec's reference machine: the value each open parameter takes in State.reset (92_eei_decisions.md,
"Named parameters, summary"), and the value Reset gives each register (70_reset_and_hazards.md R290, R292). -/

namespace Sys2Proof.Machine

/-- REG_INDEX in the source's listing order (10_state.md R21, D2). PRESUMED by the spec, log 2: unsafe. -/
def referenceRegIndex : RegIndex :=
  { pc := 0, ac := 1, sp := 2, ir := 3, tir := 4, zero := 5, one := 6, mone := 7, amask := 8, smask := 9 }

/-- The reference values. The numbers are PRESUMED by the spec (log 2: unsafe), the policies are the spec's own choice
(log 3: unsafe), and the two capacities are a DESIGN CHOICE of this model (log 4: unsafe). -/
def referenceParams : Params :=
  { regIndex         := referenceRegIndex
    amaskValue       := 0x0FFF
    smaskValue       := 0x00FF
    spReset          := 4020
    rxDataAddr       := 4092
    rxStatusAddr     := 4093
    txDataAddr       := 4094
    txStatusAddr     := 4095
    enableBit        := 3
    readyBit         := 1
    enableCode       := 0x0008
    sh3Policy        := .fault
    constWritePolicy := .fault
    rdwrHaltPoint    := .afterSequencing
    resetUnlisted    := .zero
    txStatusRead     := .live
    rxqCap           := 16
    txqCap           := 16 }

/-- The value Reset gives a register, by its index (70_reset_and_hazards.md R290, R292): `old` is what it held. Every
index no role has is a scratch register. -/
def resetRegister (p : Params) (i : RegIx) (old : Word) : Word :=
  let r := p.regIndex
  if i = r.pc then 0x0000
  else if i = r.sp then p.spReset
  else if i = r.zero then 0x0000
  else if i = r.one then 0x0001
  else if i = r.mone then 0xFFFF
  else if i = r.amask then p.amaskValue
  else if i = r.smask then p.smaskValue
  else if i = r.ac ∨ i = r.ir ∨ i = r.tir then
    match p.resetUnlisted with
    | .preserve => old
    | .zero => 0x0000
  else 0x0000

/-- The register file at creation, as after a Reset of registers that hold 0 (R297). -/
def creationRegisters (p : Params) : Vector Word 16 :=
  Vector.ofFn fun i => resetRegister p (BitVec.ofFin i) 0

end Sys2Proof.Machine
end

