-- ==== Sys2Proof/Syntax.lean ====
section
/-! DEFINITION. Microinstructions as syntax: the fields of a control word (10_state.md R32, 30_encoding.md R100) and
`Instr`, one constructor for each row of spec/opcode_table.json (30_encoding.md R119). -/

namespace Sys2Proof

/-- AMUX, bit 31: the source of the ALU's A input (30_encoding.md R104). -/
inductive ABus where
  | reg
  | mbr
  deriving DecidableEq, Repr

/-- COND, bits 30:29 (30_encoding.md R105). -/
inductive Cond where
  | none
  | negative
  | zero
  | jump
  deriving DecidableEq, Repr

/-- ALU, bits 28:27 (30_encoding.md R106). -/
inductive AluFn where
  | add
  | and
  | passA
  | invA
  deriving DecidableEq, Repr

/-- SH, bits 26:25 (30_encoding.md R107). The value 3 decodes like every other. -/
inductive ShiftFn where
  | none
  | right
  | left
  | reserved
  deriving DecidableEq, Repr

/-- A decoded control word (10_state.md R32), without the breakpoint flag, which is no part of the encoded word and is
kept with the control-store slot. -/
structure MicroInstr where
  amux : ABus
  cond : Cond
  alu  : AluFn
  sh   : ShiftFn
  mbr  : Bool
  mar  : Bool
  rd   : Bool
  wr   : Bool
  enc  : Bool
  c    : RegIx
  b    : RegIx
  a    : RegIx
  addr : MicroAddr
  deriving DecidableEq, Repr

/-- Every field 0: the decoding of the word 0 (30_encoding.md R114). -/
def MicroInstr.zero : MicroInstr :=
  { amux := .reg, cond := .none, alu := .add, sh := .none, mbr := false, mar := false, rd := false, wr := false,
    enc := false, c := 0, b := 0, a := 0, addr := 0 }

/-- One constructor for each row of spec/opcode_table.json. A row is a set of control words (its mask and match, R119):
`microinstruction` stands for every word, `nop` for the word 0, and a micro-operation's constructor for every word that
selects the row. Its argument gives the other bits of the word: the field (for a memory request the two fields) that
the row fixes is fixed by the constructor, whatever the argument holds there (`Instr.control`). -/
inductive Instr where
  | microinstruction (m : MicroInstr)
  | nop
  | amuxReg     (m : MicroInstr)
  | amuxMbr     (m : MicroInstr)
  | condNone    (m : MicroInstr)
  | condN       (m : MicroInstr)
  | condZ       (m : MicroInstr)
  | condJump    (m : MicroInstr)
  | aluAdd      (m : MicroInstr)
  | aluAnd      (m : MicroInstr)
  | aluPassA    (m : MicroInstr)
  | aluInvA     (m : MicroInstr)
  | shNone      (m : MicroInstr)
  | shRight     (m : MicroInstr)
  | shLeft      (m : MicroInstr)
  | shReserved  (m : MicroInstr)
  | mbrHold     (m : MicroInstr)
  | mbrLatch    (m : MicroInstr)
  | marHold     (m : MicroInstr)
  | marLatch    (m : MicroInstr)
  | memNone     (m : MicroInstr)
  | memWrite    (m : MicroInstr)
  | memRead     (m : MicroInstr)
  | memRdWrHalt (m : MicroInstr)
  | regHold     (m : MicroInstr)
  | regWrite    (m : MicroInstr)
  deriving DecidableEq, Repr

/-- The control word an instruction stands for, as fields: the argument with the row's own value in the row's group
(30_encoding.md R119, the `match` column). -/
def Instr.control : Instr → MicroInstr
  | .microinstruction m => m
  | .nop           => .zero
  | .amuxReg m     => { m with amux := .reg }
  | .amuxMbr m     => { m with amux := .mbr }
  | .condNone m    => { m with cond := .none }
  | .condN m       => { m with cond := .negative }
  | .condZ m       => { m with cond := .zero }
  | .condJump m    => { m with cond := .jump }
  | .aluAdd m      => { m with alu := .add }
  | .aluAnd m      => { m with alu := .and }
  | .aluPassA m    => { m with alu := .passA }
  | .aluInvA m     => { m with alu := .invA }
  | .shNone m      => { m with sh := .none }
  | .shRight m     => { m with sh := .right }
  | .shLeft m      => { m with sh := .left }
  | .shReserved m  => { m with sh := .reserved }
  | .mbrHold m     => { m with mbr := false }
  | .mbrLatch m    => { m with mbr := true }
  | .marHold m     => { m with mar := false }
  | .marLatch m    => { m with mar := true }
  | .memNone m     => { m with rd := false, wr := false }
  | .memWrite m    => { m with rd := false, wr := true }
  | .memRead m     => { m with rd := true, wr := false }
  | .memRdWrHalt m => { m with rd := true, wr := true }
  | .regHold m     => { m with enc := false }
  | .regWrite m    => { m with enc := true }

end Sys2Proof
end

