-- ==== Sys2Proof/Machine/State.lean ====
section
/-! DEFINITION. The machine's state (10_state.md R20 to R45) as plain data, the reasons a Step stops, and the state at
creation (70_reset_and_hazards.md R297). -/

namespace Sys2Proof.Machine

/-- HALT or RUN (10_state.md R36). -/
inductive RunState where
  | halt
  | run
  deriving DecidableEq, Repr

/-- What the spec's FAULT record can hold (10_state.md R43, 60_exceptions.md R260, R265). A Step that raises one of these
answers a next state with nothing changed but the record (40_datapath.md R141); `step` answers the outcome `fault` only
while the record is set. -/
inductive Fault where
  /-- Code 0: the fetch found slot `mpc` Empty (R260). Raised by the fetch. Safe: the engine stops there too. -/
  | fatal (mpc : MicroAddr)
  /-- Code 1: SH = 3 under SH3_POLICY = fault (41_alu_shifter.md R170). Raised by sub-step 4. Safe: the model stops where
  an engine may go on. -/
  | reservedShift
  /-- Code 2: a register write to a constant register under CONST_WRITE_POLICY = fault (40_datapath.md R145). Raised by
  sub-step 6. Safe: the model stops where an engine may go on. -/
  | constantWrite
  /-- Code 3: a write cycle 2 with STG_B = None (43_memory_requests.md R204). Raised by sub-step 8. Safe: the model stops
  where an engine may store some value. -/
  | staleWriteStaging
  deriving DecidableEq, Repr

/-- Why the model gives an instruction no meaning. -/
inductive Refusal where
  /-- An instruction of the opcode table that has no meaning yet, by its mnemonic. Raised by an arm of `exec` only; none
  does. Safe: nothing follows from it. -/
  | notModelled (mnemonic : String)
  deriving DecidableEq, Repr

/-- A Defined control-store slot: the decoded microinstruction and its breakpoint flag (10_state.md R31 to R33). -/
structure Slot where
  mi : MicroInstr
  bp : Bool
  deriving DecidableEq, Repr

/-- Data memory: the nonzero words of `M` by address, addresses strictly rising (20_memory.md R60). A word has 16 bits
and no bytes (R65), so a cell is a word (log 20). An unlisted address reads as 0 (70_reset_and_hazards.md R297). -/
abbrev Memory := List (Nat × Word)

/-- The control store: the Defined slots by micro-address, strictly rising (10_state.md R31). An unlisted slot is
Empty. -/
abbrev ControlStore := List (Nat × Slot)

/-- Everything the spec gives the machine (10_state.md R45), and the parameters of the implementation (00_scope.md R8),
which nothing writes (log 1). -/
structure State where
  params   : Params
  /-- R[0] to R[15] (R20). -/
  regs     : Vector Word 16
  /-- R26. -/
  mar      : Word
  /-- R27. -/
  mbr      : Word
  /-- The address staging latch (R28). -/
  stgA     : Option Addr
  /-- The buffer staging latch (R29). -/
  stgB     : Option Word
  /-- The micro-program counter (R34). -/
  mpc      : MicroAddr
  /-- CYCLES (R37). -/
  cycles   : Nat
  /-- `State` of the spec, the actual run state (R36). RUN exactly while a run loop is active. -/
  runState : RunState
  /-- `Desired`, the requested run state (R36). -/
  desired  : RunState
  /-- The receiver status register (R38). -/
  rxs      : Word
  /-- The transmitter status register (R39). -/
  txs      : Word
  /-- The control store with its breakpoint flags (R31, R33). -/
  cs       : ControlStore
  /-- Data memory, the four device cells included (20_memory.md R60, R64). -/
  mem      : Memory
  /-- The serial input queue, oldest byte first (R41). -/
  rxq      : List Byte
  /-- The serial output queue, oldest byte first (R41). -/
  txq      : List Byte
  /-- FAULT (R43). -/
  fault    : Option Fault
  /-- The run loop stands in the Hold branch of Run(), waiting for space in TXQ to retry a Step (44_host_interface.md
  R236; log 19). A Step neither reads nor writes it. -/
  awaitingSpace : Bool
  deriving DecidableEq, Repr

/-- The engine when it is created (70_reset_and_hazards.md R297). -/
def State.creation (p : Params) : State :=
  { params := p
    regs := creationRegisters p
    mar := 0
    mbr := 0
    stgA := none
    stgB := none
    mpc := 0
    cycles := 0
    runState := .halt
    desired := .halt
    rxs := 0
    txs := 0
    cs := []
    mem := []
    rxq := []
    txq := []
    fault := none
    awaitingSpace := false }

/-- The machine right after reset: the creation state of the reference machine (R297, 92_eei_decisions.md). AC, IR, TIR,
MAR, RXS and TXS are 0 by R297 (log 14: unsafe). -/
def State.reset : State := State.creation referenceParams

end Sys2Proof.Machine
end

