-- ==== Sys2Proof/Machine/Store.lean ====
section
/-! DEFINITION. Data memory and the control store as canonical lists: lookup, update and the form they keep. -/

namespace Sys2Proof.Machine

/-- The entry at key `k`. -/
def lookup {α : Type} (k : Nat) : List (Nat × α) → Option α
  | [] => none
  | (j, v) :: rest => if j = k then some v else lookup k rest

/-- The list with `v` at key `k` (an absent `v` removes the entry), in rising order. -/
def put {α : Type} (k : Nat) (v : Option α) : List (Nat × α) → List (Nat × α)
  | [] => match v with
    | some x => [(k, x)]
    | none => []
  | (j, y) :: rest =>
    if k < j then
      match v with
      | some x => (k, x) :: (j, y) :: rest
      | none => (j, y) :: rest
    else if k = j then
      match v with
      | some x => (k, x) :: rest
      | none => rest
    else (j, y) :: put k v rest

/-- Keys strictly rise, all of them at least `lo` and below `bound`. -/
def risingFrom {α : Type} (lo bound : Nat) : List (Nat × α) → Bool
  | [] => true
  | (k, _) :: rest => decide (lo ≤ k) && decide (k < bound) && risingFrom (k + 1) bound rest

/-- The canonical form of memory: addresses of the 4096 words, strictly rising, no entry 0 (20_memory.md R60). -/
def Memory.wf (m : Memory) : Bool :=
  risingFrom 0 4096 m && m.all fun cell => decide (cell.2 ≠ 0)

/-- `M[a]` (00_scope.md R11): plain storage, without device semantics. -/
def Memory.read (m : Memory) (a : Addr) : Word := (lookup a.toNat m).getD 0

/-- `M[a] <- v`: plain storage. Storing 0 removes the entry. -/
def Memory.write (m : Memory) (a : Addr) (v : Word) : Memory :=
  put a.toNat (if v = 0 then none else some v) m

/-- The canonical form of the control store: micro-addresses of the 256 slots, strictly rising (10_state.md R31). -/
def ControlStore.wf (cs : ControlStore) : Bool := risingFrom 0 256 cs

/-- `CS[m]` (00_scope.md R11): `none` is Empty. -/
def ControlStore.slot (cs : ControlStore) (m : MicroAddr) : Option Slot := lookup m.toNat cs

/-- `CS[m] <- Defined(slot)`. -/
def ControlStore.define (cs : ControlStore) (m : MicroAddr) (slot : Slot) : ControlStore :=
  put m.toNat (some slot) cs

end Sys2Proof.Machine
end

