-- ==== Sys2Proof/Machine/Ops.lean ====
section
/-! DEFINITION. The named operations the micro-cycle is built from: how a Step ends, raising a fault, the register
file, the serial device, the device-aware memory primitives and the end-of-Step actions. -/

namespace Sys2Proof.Machine

/-! ## How a Step ends -/

/-- The outcomes of a Step (40_datapath.md R141), and of a part of one. `done` holds the state reached, `raised` the
fault that ends the Step, `held` says that the Step is not enabled. -/
inductive Progress where
  | done (s : State)
  | raised (f : Fault)
  | held
  deriving DecidableEq, Repr

/-- The next part of a Step, on the state the first part reached: it sees every write before it (00_scope.md R12), and a
Step that has ended goes no further (60_exceptions.md R266). -/
def Progress.andThen : Progress → (State → Progress) → Progress
  | .done s, k => k s
  | .raised f, _ => .raised f
  | .held, _ => .held

/-- Raising a fault: the Step leaves the state as it was and the model records the fault (40_datapath.md R141). The
record keeps the first fault (10_state.md R43). Nothing is saved, no mode changes and no vector is taken
(60_exceptions.md R268), and there is no return (R269): only `resetEngine` clears the record. -/
def raise (f : Fault) (s : State) : State :=
  { s with fault := s.fault.or (some f) }

/-- The cause code of a fault (60_exceptions.md R260, R265): the spec's own labels. -/
def faultCode : Fault → Nat
  | .fatal _ => 0
  | .reservedShift => 1
  | .constantWrite => 2
  | .staleWriteStaging => 3

/-- The answer of a Step that started in `s` (R141). A held Step is not enabled and leaves the state as it is, so it
answers the state it started in (log 5). -/
def commit (s : State) : Progress → Host.Outcome State Fault Refusal
  | .done t => .next t
  | .raised f => .next (raise f s)
  | .held => .next s

/-! ## The register file -/

/-- `R[i]` (00_scope.md R11). -/
def State.readReg (s : State) (i : RegIx) : Word := s.regs.get i.toFin

/-- `R[i] <- v` without the guard of the constant registers. -/
def State.setReg (s : State) (i : RegIx) (v : Word) : State :=
  { s with regs := s.regs.set i.toNat v i.isLt }

/-- Index `i` names ZERO, ONE, MONE, AMASK or SMASK under REG_INDEX (10_state.md R21). -/
def State.isConstantReg (s : State) (i : RegIx) : Bool :=
  decide (i ∈ s.params.regIndex.constants)

/-- WriteReg (40_datapath.md R144, R145). -/
def writeReg (c : RegIx) (v : Word) (s : State) : Progress :=
  if s.isConstantReg c then
    match s.params.constWritePolicy with
    | .fault => .raised .constantWrite
    | .discard => .done s
  else .done (s.setReg c v)

/-! ## The serial device -/

/-- RX_PENDING of 20_memory.md R71: "enabled, pending". -/
def rxPending (p : Params) : Word := 1#16 <<< p.enableBit.val

/-- READY_VAL of 20_memory.md R71: "ready", "data ready". -/
def readyVal (p : Params) : Word := (1#16 <<< p.enableBit.val) ||| (1#16 <<< p.readyBit.val)

/-- `RXS[ENABLE_BIT] = 1` (10_state.md R38). -/
def State.rxEnabled (s : State) : Bool := s.rxs.getLsbD s.params.enableBit.val

/-- `RXS[READY_BIT] = 1` (10_state.md R38). -/
def State.rxReady (s : State) : Bool := s.rxs.getLsbD s.params.readyBit.val

/-- `TXS[ENABLE_BIT] = 1` (10_state.md R39). -/
def State.txEnabled (s : State) : Bool := s.txs.getLsbD s.params.enableBit.val

/-- A store to address `a` would push onto a full TXQ (20_memory.md R71, D21): the Step is then held. -/
def State.transmitBlocked (s : State) (a : Addr) : Bool :=
  decide (a ≠ s.params.rxStatusAddr ∧ a ≠ s.params.txStatusAddr ∧ a = s.params.txDataAddr)
    && s.txEnabled && decide (s.txq.length = s.params.txqCap)

/-! ## Device-aware memory access -/

/-- `M[a] <- v` on the state: the plain cell. -/
def State.storeCell (s : State) (a : Addr) (v : Word) : State :=
  { s with mem := Memory.write s.mem a v }

/-- `M[a]` on the state: the plain cell. -/
def State.cell (s : State) (a : Addr) : Word := Memory.read s.mem a

/-- The side effect of a read of RXDATA_ADDR (20_memory.md R70): with both status bits set, READY is cleared. -/
def acknowledgeReceive (s : State) : State :=
  if s.rxEnabled && s.rxReady then { s with rxs := s.rxs &&& ~~~(1#16 <<< s.params.readyBit.val) } else s

/-- The word MemRead(a) returns (20_memory.md R70). -/
def memReadValue (a : Addr) (s : State) : Word :=
  if a = s.params.rxDataAddr then s.cell a
  else if a = s.params.rxStatusAddr then s.rxs
  else if a = s.params.txStatusAddr then
    match s.params.txStatusRead with
    | .live => s.txs
    | .backing => s.cell a
  else s.cell a

/-- The state MemRead(a) leaves (20_memory.md R69, R70). -/
def memReadEffect (a : Addr) (s : State) : State :=
  if a = s.params.rxDataAddr then acknowledgeReceive s else s

/-- The transmitter data write (20_memory.md R71): the low byte goes to the backing cell and, from an enabled
transmitter, to TXQ. -/
def transmit (a : Addr) (v : Word) (s : State) : State :=
  let s' := s.storeCell a ((v.extractLsb' 0 8).setWidth 16)
  if s'.txEnabled then { s' with txq := s'.txq ++ [v.extractLsb' 0 8], txs := readyVal s'.params } else s'

/-- The state MemWrite(a, v) leaves when it is not held (20_memory.md R71). -/
def memWriteState (a : Addr) (v : Word) (s : State) : State :=
  if a = s.params.rxStatusAddr then
    if v = s.params.enableCode then { s with rxs := rxPending s.params } else s
  else if a = s.params.txStatusAddr then
    let s' := if v = s.params.enableCode then { s with txs := readyVal s.params } else s
    match s.params.txStatusRead with
    | .live => s'
    | .backing => s'.storeCell a v
  else if a = s.params.txDataAddr then transmit a v s
  else s.storeCell a v

/-- MemWrite(a, v) (20_memory.md R71). -/
def memWrite (a : Addr) (v : Word) (s : State) : Progress :=
  if s.transmitBlocked a then .held else .done (memWriteState a v s)

/-! ## The two-phase bus protocol -/

/-- `MAR[11:0]` (20_memory.md R67). -/
def State.busAddress (s : State) : Addr := s.mar.extractLsb' 0 12

/-- ReadCycle (43_memory_requests.md R201). -/
def readCycle (s : State) : State :=
  match s.stgA with
  | some a => { memReadEffect a s with mbr := memReadValue a s, stgA := none }
  | none => { s with stgA := some s.busAddress }

/-- WriteCycle (43_memory_requests.md R204). -/
def writeCycle (s : State) : Progress :=
  match s.stgA with
  | some a =>
    match s.stgB with
    | none => .raised .staleWriteStaging
    | some v => (memWrite a v s).andThen fun t => .done { t with stgA := none }
  | none => .done { s with stgA := some s.busAddress, stgB := some s.mbr }

/-! ## The end of a Step -/

/-- Sub-step 9 (40_datapath.md R140). -/
def countCycle (s : State) : State := { s with cycles := s.cycles + 1 }

/-- Sub-step 10 (42_sequencing.md R183): the flag of the slot at the already advanced MPC. An Empty slot has none. -/
def breakpointCheck (s : State) : State :=
  match ControlStore.slot s.cs s.mpc with
  | some slot => if slot.bp then { s with desired := .halt } else s
  | none => s

/-- Sub-step 11, ReceivePoll (43_memory_requests.md R210). -/
def receivePoll (s : State) : State :=
  if s.rxEnabled && !s.rxReady then
    match s.rxq with
    | byte :: rest =>
      { s with rxq := rest, mem := Memory.write s.mem s.params.rxDataAddr (byte.setWidth 16), rxs := readyVal s.params }
    | [] => s
  else s

/-- Sub-steps 9 to 11 in order (40_datapath.md R140). -/
def endOfStep (s : State) : State := receivePoll (breakpointCheck (countCycle s))

/-- RdWrHalt (43_memory_requests.md R207): `start` is the state at the start of the Step, `s` the state after sub-step 7.
No memory access happens and staging is left alone. -/
def rdWrHalt (start s : State) : State :=
  match s.params.rdwrHaltPoint with
  | .afterSequencing => { s with desired := .halt }
  | .discardAll => { start with desired := .halt }
  | .complete => endOfStep { s with desired := .halt }

end Sys2Proof.Machine
end

