-- ==== Sys2Proof/Machine/Operands.lean ====
section
/-! DEFINITION. The operands of a microinstruction: the A and B buses (40_datapath.md R142, 30_encoding.md R104, R109),
the ALU's function stage (41_alu_shifter.md R160 to R163), the shifter (R167 to R170) and the MAR and MBR latches
(40_datapath.md R142, R143). -/

namespace Sys2Proof.Machine

/-- The B bus (R142): register B is always read. -/
def bBus (m : MicroInstr) (s : State) : Word := s.readReg m.b

/-- The A bus (R142): MBR, or register A. -/
def aBus (m : MicroInstr) (s : State) : Word :=
  match m.amux with
  | .mbr => s.mbr
  | .reg => s.readReg m.a

/-- The function stage of the ALU (R160 to R163). -/
def aluResult (fn : AluFn) (a b : Word) : Word :=
  match fn with
  | .add => a + b
  | .and => a &&& b
  | .passA => a
  | .invA => ~~~a

/-- The shifter stage (R167 to R169). SH = 3 passes its input under SH3_POLICY = none and is not reached under `fault`
(R170). -/
def shiftOutput (sh : ShiftFn) (f : Word) : Word :=
  match sh with
  | .none => f
  | .right => f >>> 1
  | .left => f <<< 1
  | .reserved => f

/-- Sub-step 4 raises ReservedShift (R170). -/
def shiftFaults (m : MicroInstr) (s : State) : Bool :=
  decide (m.sh = .reserved ∧ s.params.sh3Policy = .fault)

/-- The function result of the Step that starts in `s`. -/
def cycleResult (m : MicroInstr) (s : State) : Word := aluResult m.alu (aBus m s) (bBus m s)

/-- The output of the Step that starts in `s`: what MBR and the register file latch (R143, R144; 90_conflicts.md C3). -/
def cycleOutput (m : MicroInstr) (s : State) : Word := shiftOutput m.sh (cycleResult m s)

/-- Sub-step 3 (R142). -/
def latchMar (m : MicroInstr) (v : Word) (s : State) : State :=
  if m.mar then { s with mar := v } else s

/-- Sub-step 5 (R143). -/
def latchMbr (m : MicroInstr) (v : Word) (s : State) : State :=
  if m.mbr then { s with mbr := v } else s

/-- Sub-step 6 (R144). -/
def latchReg (m : MicroInstr) (v : Word) (s : State) : Progress :=
  if m.enc then writeReg m.c v s else .done s

end Sys2Proof.Machine
end

