-- ==== Sys2Proof/Machine/Flags.lean ====
section
/-! DEFINITION. The flags (41_alu_shifter.md R166) and the next micro-address they decide (42_sequencing.md R180). -/

namespace Sys2Proof.Machine

/-- Z: the function result, before the shift, is 0 (R166). -/
def zeroFlag (f : Word) : Bool := decide (f = 0)

/-- N: bit 15 of the function result, before the shift (R166; DEDUCED by the spec, log 12). -/
def negativeFlag (f : Word) : Bool := f.getLsbD 15

/-- COND takes the jump on flags `n` and `z` (42_sequencing.md R184 to R187). -/
def condTaken (cond : Cond) (n z : Bool) : Bool :=
  match cond with
  | .none => false
  | .negative => n
  | .zero => z
  | .jump => true

/-- NextMPC (R180): MPC + 1 modulo 256, or ADDR. -/
def nextMpc (mpc : MicroAddr) (cond : Cond) (addr : MicroAddr) (n z : Bool) : MicroAddr :=
  if condTaken cond n z then addr else mpc + 1

/-- Sub-step 7 (40_datapath.md R140) on the function result `f` of the same Step. -/
def sequence (m : MicroInstr) (f : Word) (s : State) : State :=
  { s with mpc := nextMpc s.mpc m.cond m.addr (negativeFlag f) (zeroFlag f) }

end Sys2Proof.Machine
end

