-- ==== Sys2Proof/Machine/Cycle.lean ====
section
/-! DEFINITION. The micro-cycle (40_datapath.md R140): sub-steps 2 to 11 of a Step, for the microinstruction that
sub-step 1 fetched. -/

namespace Sys2Proof.Machine

/-- Sub-steps 2 to 7: operands, MAR, ALU and shifter, MBR, register write, sequencing. -/
def datapath (m : MicroInstr) (s : State) : Progress :=
  if shiftFaults m s then .raised .reservedShift
  else
    (latchReg m (cycleOutput m s) (latchMbr m (cycleOutput m s) (latchMar m (bBus m s) s))).andThen fun t =>
      .done (sequence m (cycleResult m s) t)

/-- Sub-steps 8 to 11, on the state `s` after sub-step 7 of a Step that started in `start`. -/
def memoryBus (m : MicroInstr) (start s : State) : Progress :=
  match m.rd, m.wr with
  | true, true => .done (rdWrHalt start s)
  | true, false => .done (endOfStep (readCycle s))
  | false, true => (writeCycle s).andThen fun t => .done (endOfStep t)
  | false, false => .done (endOfStep s)

/-- Sub-steps 2 to 11 (R140). -/
def microCycle (m : MicroInstr) (s : State) : Progress :=
  (datapath m s).andThen (memoryBus m s)

/-- A Step's answer for the microinstruction `m` (R141). -/
def runWord (m : MicroInstr) (s : State) : Host.Outcome State Fault Refusal :=
  commit s (microCycle m s)

end Sys2Proof.Machine
end

