-- ==== Sys2Proof/Machine/Alu.lean ====
section
/-! DEFINITION. The ALU and shifter rows (41_alu_shifter.md R160 to R170). Each meaning is the Step of a word that selects the row,
whatever the other fields are (30_encoding.md R119). -/

namespace Sys2Proof.Machine

/-- ALU_ADD (R160): the function result is A + B modulo 2^16. -/
def execAluAdd (m : MicroInstr) (s : State) : Host.Outcome State Fault Refusal :=
  runWord { m with alu := .add } s

/-- ALU_AND (R161): the function result is A AND B. -/
def execAluAnd (m : MicroInstr) (s : State) : Host.Outcome State Fault Refusal :=
  runWord { m with alu := .and } s

/-- ALU_PASSA (R162): the function result is A. -/
def execAluPassA (m : MicroInstr) (s : State) : Host.Outcome State Fault Refusal :=
  runWord { m with alu := .passA } s

/-- ALU_INVA (R163): the function result is the complement of A. -/
def execAluInvA (m : MicroInstr) (s : State) : Host.Outcome State Fault Refusal :=
  runWord { m with alu := .invA } s

/-- SH_NONE (R167): the output is the function result. -/
def execShNone (m : MicroInstr) (s : State) : Host.Outcome State Fault Refusal :=
  runWord { m with sh := .none } s

/-- SH_RIGHT (R168): the output is the function result shifted right by 1, zero filled. -/
def execShRight (m : MicroInstr) (s : State) : Host.Outcome State Fault Refusal :=
  runWord { m with sh := .right } s

/-- SH_LEFT (R169): the output is the function result shifted left by 1. -/
def execShLeft (m : MicroInstr) (s : State) : Host.Outcome State Fault Refusal :=
  runWord { m with sh := .left } s

/-- SH_RESERVED (R170): raises ReservedShift under SH3_POLICY = fault, shifts nothing under `none`. -/
def execShReserved (m : MicroInstr) (s : State) : Host.Outcome State Fault Refusal :=
  runWord { m with sh := .reserved } s

end Sys2Proof.Machine
end

