-- ==== Sys2Proof/Machine/Datapath.lean ====
section
/-! DEFINITION. The datapath rows: A-bus source, MAR latch, MBR latch and register write (40_datapath.md R142 to R145). Each meaning is the
Step of a word that selects the row, whatever the other fields are (30_encoding.md R119). -/

namespace Sys2Proof.Machine

/-- AMUX_REG (R142): the A bus carries R[A]. -/
def execAmuxReg (m : MicroInstr) (s : State) : Host.Outcome State Fault Refusal :=
  runWord { m with amux := .reg } s

/-- AMUX_MBR (R142): the A bus carries MBR. -/
def execAmuxMbr (m : MicroInstr) (s : State) : Host.Outcome State Fault Refusal :=
  runWord { m with amux := .mbr } s

/-- MAR_HOLD (R142): MAR keeps its value. -/
def execMarHold (m : MicroInstr) (s : State) : Host.Outcome State Fault Refusal :=
  runWord { m with mar := false } s

/-- MAR_LATCH (R142): MAR takes the whole B bus. -/
def execMarLatch (m : MicroInstr) (s : State) : Host.Outcome State Fault Refusal :=
  runWord { m with mar := true } s

/-- MBR_HOLD (R143): the ALU output is not latched into MBR. -/
def execMbrHold (m : MicroInstr) (s : State) : Host.Outcome State Fault Refusal :=
  runWord { m with mbr := false } s

/-- MBR_LATCH (R143): MBR takes the output after the shift. -/
def execMbrLatch (m : MicroInstr) (s : State) : Host.Outcome State Fault Refusal :=
  runWord { m with mbr := true } s

/-- REG_HOLD (R144): no register is written, whatever C holds. -/
def execRegHold (m : MicroInstr) (s : State) : Host.Outcome State Fault Refusal :=
  runWord { m with enc := false } s

/-- REG_WRITE (R144, R145): R[C] takes the output after the shift; a constant register follows CONST_WRITE_POLICY. -/
def execRegWrite (m : MicroInstr) (s : State) : Host.Outcome State Fault Refusal :=
  runWord { m with enc := true } s

end Sys2Proof.Machine
end

