-- ==== Sys2Proof/Machine/MemoryRequests.lean ====
section
/-! DEFINITION. The memory request rows (43_memory_requests.md R200 to R207). Each meaning is the Step of a word that selects the row,
whatever the other fields are (30_encoding.md R119). -/

namespace Sys2Proof.Machine

/-- MEM_NONE (40_datapath.md R140): no request, staging is left alone. -/
def execMemNone (m : MicroInstr) (s : State) : Host.Outcome State Fault Refusal :=
  runWord { m with rd := false, wr := false } s

/-- MEM_WRITE (R204): a write cycle 1 or 2. -/
def execMemWrite (m : MicroInstr) (s : State) : Host.Outcome State Fault Refusal :=
  runWord { m with rd := false, wr := true } s

/-- MEM_READ (R201): a read cycle 1 or 2. -/
def execMemRead (m : MicroInstr) (s : State) : Host.Outcome State Fault Refusal :=
  runWord { m with rd := true, wr := false } s

/-- MEM_RDWR_HALT (R207): a defined halt. -/
def execMemRdWrHalt (m : MicroInstr) (s : State) : Host.Outcome State Fault Refusal :=
  runWord { m with rd := true, wr := true } s

end Sys2Proof.Machine
end

