-- ==== Sys2Proof/Machine/Sequencing.lean ====
section
/-! DEFINITION. The sequencing rows (42_sequencing.md R180 to R187). Each meaning is the Step of a word that selects the row, whatever the
other fields are (30_encoding.md R119). -/

namespace Sys2Proof.Machine

/-- COND_NONE (R184): MPC takes MPC + 1. -/
def execCondNone (m : MicroInstr) (s : State) : Host.Outcome State Fault Refusal :=
  runWord { m with cond := .none } s

/-- COND_N (R185): MPC takes ADDR if N, else MPC + 1. -/
def execCondN (m : MicroInstr) (s : State) : Host.Outcome State Fault Refusal :=
  runWord { m with cond := .negative } s

/-- COND_Z (R186): MPC takes ADDR if Z, else MPC + 1. -/
def execCondZ (m : MicroInstr) (s : State) : Host.Outcome State Fault Refusal :=
  runWord { m with cond := .zero } s

/-- COND_JUMP (R187): MPC takes ADDR. -/
def execCondJump (m : MicroInstr) (s : State) : Host.Outcome State Fault Refusal :=
  runWord { m with cond := .jump } s

end Sys2Proof.Machine
end

