-- ==== Sys2Proof/Machine/Whole.lean ====
section
/-! DEFINITION. The two rows of the whole word: MICROINSTRUCTION (40_datapath.md R140) and NOP (30_encoding.md R114). -/

namespace Sys2Proof.Machine

/-- MICROINSTRUCTION (40_datapath.md R140): the Step of any control word. -/
def execMicroinstruction (m : MicroInstr) (s : State) : Host.Outcome State Fault Refusal :=
  runWord m s

/-- NOP (30_encoding.md R114): the word 0 adds R[0] to R[0], latches nothing, requests nothing and falls through. The Step is
counted, and its breakpoint check and receive poll run. -/
def execNop (s : State) : Host.Outcome State Fault Refusal :=
  runWord .zero s

end Sys2Proof.Machine
end

