-- ==== Sys2Proof/Machine/Dispatch.lean ====
section
/-! DEFINITION. The dispatch from an instruction to its meaning, one arm for each row of spec/opcode_table.json. -/

namespace Sys2Proof.Machine

/-- Sub-steps 2 to 11 of a Step (40_datapath.md R140), by the row that names the control word. -/
def exec (i : Instr) (s : State) : Host.Outcome State Fault Refusal :=
  match i with
  | .microinstruction m => Sys2Proof.Machine.execMicroinstruction m s
  | .nop => Sys2Proof.Machine.execNop s
  | .amuxReg m => Sys2Proof.Machine.execAmuxReg m s
  | .amuxMbr m => Sys2Proof.Machine.execAmuxMbr m s
  | .condNone m => Sys2Proof.Machine.execCondNone m s
  | .condN m => Sys2Proof.Machine.execCondN m s
  | .condZ m => Sys2Proof.Machine.execCondZ m s
  | .condJump m => Sys2Proof.Machine.execCondJump m s
  | .aluAdd m => Sys2Proof.Machine.execAluAdd m s
  | .aluAnd m => Sys2Proof.Machine.execAluAnd m s
  | .aluPassA m => Sys2Proof.Machine.execAluPassA m s
  | .aluInvA m => Sys2Proof.Machine.execAluInvA m s
  | .shNone m => Sys2Proof.Machine.execShNone m s
  | .shRight m => Sys2Proof.Machine.execShRight m s
  | .shLeft m => Sys2Proof.Machine.execShLeft m s
  | .shReserved m => Sys2Proof.Machine.execShReserved m s
  | .mbrHold m => Sys2Proof.Machine.execMbrHold m s
  | .mbrLatch m => Sys2Proof.Machine.execMbrLatch m s
  | .marHold m => Sys2Proof.Machine.execMarHold m s
  | .marLatch m => Sys2Proof.Machine.execMarLatch m s
  | .memNone m => Sys2Proof.Machine.execMemNone m s
  | .memWrite m => Sys2Proof.Machine.execMemWrite m s
  | .memRead m => Sys2Proof.Machine.execMemRead m s
  | .memRdWrHalt m => Sys2Proof.Machine.execMemRdWrHalt m s
  | .regHold m => Sys2Proof.Machine.execRegHold m s
  | .regWrite m => Sys2Proof.Machine.execRegWrite m s

end Sys2Proof.Machine
end

