-- ==== Sys2Proof/WellFormed.lean ====
section
/-! DEFINITION. Which terms of `Instr` are the decoder's own name for their control word. Every word selects one row of
each group (30_encoding.md R119), so it has several names; `Instr.wellFormed` keeps exactly one of them. The choice is
the model's (notes/assumptions/7.md); the meaning of a word does not depend on it. -/

namespace Sys2Proof

/-- The eight field groups of 30_encoding.md R119. -/
inductive Group where
  | aBus
  | sequencing
  | aluFunction
  | shifter
  | mbrLatch
  | marLatch
  | memRequest
  | regWrite
  deriving DecidableEq, Repr

/-- The groups in which the word selects another row than the one whose match is 0. -/
def MicroInstr.active (m : MicroInstr) : List Group :=
  (if m.amux = .reg then [] else [.aBus])
    ++ (if m.cond = .none then [] else [.sequencing])
    ++ (if m.alu = .add then [] else [.aluFunction])
    ++ (if m.sh = .none then [] else [.shifter])
    ++ (if m.mbr then [.mbrLatch] else [])
    ++ (if m.mar then [.marLatch] else [])
    ++ (if m.rd || m.wr then [.memRequest] else [])
    ++ (if m.enc then [.regWrite] else [])

/-- The names the decoder gives (log 7). A row with a match other than 0 names the words in which only its group is
active. `microinstruction` names the words with two or more active groups, `nop` the word 0. A word with no active group
and some operand is named by one of the eight rows with match 0, by which operand fields it holds: ADDR alone by
COND_NONE, ADDR with another by MEM_NONE, C alone by REG_HOLD, C with A by SH_NONE, C with B by MBR_HOLD, A and B by
ALU_ADD, B alone by MAR_HOLD, A alone by AMUX_REG. -/
def Instr.wellFormed : Instr → Bool
  | .microinstruction m => decide (2 ≤ m.active.length)
  | .nop           => true
  | .amuxReg m     => decide (m.active = [] ∧ m.addr = 0 ∧ m.c = 0 ∧ m.b = 0 ∧ m.a ≠ 0)
  | .amuxMbr m     => decide (m.active = [.aBus])
  | .condNone m    => decide (m.active = [] ∧ m.addr ≠ 0 ∧ m.c = 0 ∧ m.b = 0 ∧ m.a = 0)
  | .condN m       => decide (m.active = [.sequencing] ∧ m.cond = .negative)
  | .condZ m       => decide (m.active = [.sequencing] ∧ m.cond = .zero)
  | .condJump m    => decide (m.active = [.sequencing] ∧ m.cond = .jump)
  | .aluAdd m      => decide (m.active = [] ∧ m.addr = 0 ∧ m.c = 0 ∧ m.b ≠ 0 ∧ m.a ≠ 0)
  | .aluAnd m      => decide (m.active = [.aluFunction] ∧ m.alu = .and)
  | .aluPassA m    => decide (m.active = [.aluFunction] ∧ m.alu = .passA)
  | .aluInvA m     => decide (m.active = [.aluFunction] ∧ m.alu = .invA)
  | .shNone m      => decide (m.active = [] ∧ m.addr = 0 ∧ m.c ≠ 0 ∧ m.b = 0 ∧ m.a ≠ 0)
  | .shRight m     => decide (m.active = [.shifter] ∧ m.sh = .right)
  | .shLeft m      => decide (m.active = [.shifter] ∧ m.sh = .left)
  | .shReserved m  => decide (m.active = [.shifter] ∧ m.sh = .reserved)
  | .mbrHold m     => decide (m.active = [] ∧ m.addr = 0 ∧ m.c ≠ 0 ∧ m.b ≠ 0)
  | .mbrLatch m    => decide (m.active = [.mbrLatch])
  | .marHold m     => decide (m.active = [] ∧ m.addr = 0 ∧ m.c = 0 ∧ m.b ≠ 0 ∧ m.a = 0)
  | .marLatch m    => decide (m.active = [.marLatch])
  | .memNone m     => decide (m.active = [] ∧ m.addr ≠ 0 ∧ ¬ (m.c = 0 ∧ m.b = 0 ∧ m.a = 0))
  | .memWrite m    => decide (m.active = [.memRequest] ∧ m.rd = false)
  | .memRead m     => decide (m.active = [.memRequest] ∧ m.wr = false)
  | .memRdWrHalt m => decide (m.active = [.memRequest] ∧ m.rd = true ∧ m.wr = true)
  | .regHold m     => decide (m.active = [] ∧ m.addr = 0 ∧ m.c ≠ 0 ∧ m.b = 0 ∧ m.a = 0)
  | .regWrite m    => decide (m.active = [.regWrite])

end Sys2Proof
end

