-- ==== Sys2Proof/Decode.lean ====
section
/-! DEFINITION. Decoding a control word (30_encoding.md R100 to R102, R119), total on every 32-bit word, decoding four
bytes of a control-store image (20_memory.md R66), and the encoder (R103). -/

namespace Sys2Proof

/-- AMUX's codes (R104). -/
def ABus.ofCode (v : BitVec 1) : ABus := if v = 0 then .reg else .mbr

/-- COND's codes (R105). -/
def Cond.ofCode (v : BitVec 2) : Cond :=
  if v = 0 then .none else if v = 1 then .negative else if v = 2 then .zero else .jump

/-- ALU's codes (R106). -/
def AluFn.ofCode (v : BitVec 2) : AluFn :=
  if v = 0 then .add else if v = 1 then .and else if v = 2 then .passA else .invA

/-- SH's codes (R107). -/
def ShiftFn.ofCode (v : BitVec 2) : ShiftFn :=
  if v = 0 then .none else if v = 1 then .right else if v = 2 then .left else .reserved

/-- Decode of R102: each field is cut out of the word by itself. -/
def decodeFields (w : ControlWord) : MicroInstr :=
  { amux := .ofCode (w.extractLsb' 31 1)
    cond := .ofCode (w.extractLsb' 29 2)
    alu  := .ofCode (w.extractLsb' 27 2)
    sh   := .ofCode (w.extractLsb' 25 2)
    mbr  := w.getLsbD 24
    mar  := w.getLsbD 23
    rd   := w.getLsbD 22
    wr   := w.getLsbD 21
    enc  := w.getLsbD 20
    c    := w.extractLsb' 16 4
    b    := w.extractLsb' 12 4
    a    := w.extractLsb' 8 4
    addr := w.extractLsb' 0 8 }

/-- The row that names a word in which only group `g` is active (log 7). -/
def nameOfGroup (g : Group) (m : MicroInstr) : Instr :=
  match g with
  | .aBus        => .amuxMbr m
  | .sequencing  =>
    match m.cond with
    | .none     => .condNone m
    | .negative => .condN m
    | .zero     => .condZ m
    | .jump     => .condJump m
  | .aluFunction =>
    match m.alu with
    | .add   => .aluAdd m
    | .and   => .aluAnd m
    | .passA => .aluPassA m
    | .invA  => .aluInvA m
  | .shifter     =>
    match m.sh with
    | .none     => .shNone m
    | .right    => .shRight m
    | .left     => .shLeft m
    | .reserved => .shReserved m
  | .mbrLatch    => .mbrLatch m
  | .marLatch    => .marLatch m
  | .memRequest  =>
    match m.rd, m.wr with
    | false, false => .memNone m
    | false, true  => .memWrite m
    | true,  false => .memRead m
    | true,  true  => .memRdWrHalt m
  | .regWrite    => .regWrite m

/-- The row that names a word in which no group is active, by the operand fields it holds (log 7). -/
def nameOfOperands (m : MicroInstr) : Instr :=
  if m.addr ≠ 0 then (if m.c = 0 ∧ m.b = 0 ∧ m.a = 0 then .condNone m else .memNone m)
  else if m.c ≠ 0 then
    if m.b ≠ 0 then .mbrHold m else if m.a ≠ 0 then .shNone m else .regHold m
  else if m.b ≠ 0 then (if m.a ≠ 0 then .aluAdd m else .marHold m)
  else if m.a ≠ 0 then .amuxReg m
  else .nop

/-- The decoder's name for a control word given as fields (log 7). -/
def nameOf (m : MicroInstr) : Instr :=
  match m.active with
  | []  => nameOfOperands m
  | [g] => nameOfGroup g m
  | _   => .microinstruction m

/-- The instruction decoder, pure and total (R101). -/
def decode (w : ControlWord) : Instr := nameOf (decodeFields w)

/-- AMUX's encoding (R104). -/
def ABus.code : ABus → BitVec 1
  | .reg => 0
  | .mbr => 1

/-- COND's encoding (R105). -/
def Cond.code : Cond → BitVec 2
  | .none => 0
  | .negative => 1
  | .zero => 2
  | .jump => 3

/-- ALU's encoding (R106). -/
def AluFn.code : AluFn → BitVec 2
  | .add => 0
  | .and => 1
  | .passA => 2
  | .invA => 3

/-- SH's encoding (R107). -/
def ShiftFn.code : ShiftFn → BitVec 2
  | .none => 0
  | .right => 1
  | .left => 2
  | .reserved => 3

/-- A field as a 32-bit word with its lowest bit at position `lo`. -/
def placeField {n : Nat} (v : BitVec n) (lo : Nat) : ControlWord := v.setWidth 32 <<< lo

/-- Encode of R103. -/
def encodeFields (m : MicroInstr) : ControlWord :=
  placeField m.amux.code 31 ||| placeField m.cond.code 29 ||| placeField m.alu.code 27 ||| placeField m.sh.code 25
    ||| placeField (BitVec.ofBool m.mbr) 24 ||| placeField (BitVec.ofBool m.mar) 23
    ||| placeField (BitVec.ofBool m.rd) 22 ||| placeField (BitVec.ofBool m.wr) 21
    ||| placeField (BitVec.ofBool m.enc) 20 ||| placeField m.c 16 ||| placeField m.b 12 ||| placeField m.a 8
    ||| placeField m.addr 0

/-- The control word of an instruction (R103, R119). -/
def encode (i : Instr) : ControlWord := encodeFields i.control

/-- Why a sequence of bytes is no control word. -/
inductive DecodeError where
  /-- Fewer than the four bytes of a control word (20_memory.md R66). -/
  | truncated
  deriving DecidableEq, Repr

/-- The control word at the head of a control-store image and the bytes after it: four bytes, most significant first
(20_memory.md R66). -/
def takeControlWord : List Byte → Except DecodeError (ControlWord × List Byte)
  | b3 :: b2 :: b1 :: b0 :: rest => .ok (b3 ++ b2 ++ b1 ++ b0, rest)
  | _ => .error .truncated

/-- Decoding on bytes: total, and a short sequence is rejected by name. -/
def decodeBytes (bs : List Byte) : Except DecodeError (Instr × List Byte) :=
  match takeControlWord bs with
  | .ok (w, rest) => .ok (decode w, rest)
  | .error e => .error e

/-- The control word whose low `nbits` bits are those of `w` and whose other bits are 0. -/
def tableWord (nbits w : Nat) : ControlWord := BitVec.ofNat 32 (w % 2 ^ nbits)

/-- The instruction read from the word `w` of `nbits` bits, bit 0 the least significant. A control word has 32 bits
(R100), so a wider one is none. -/
def decodeTableWord (nbits w : Nat) : Option Instr :=
  if nbits ≤ 32 then some (decode (tableWord nbits w)) else none

end Sys2Proof
end

