-- ==== Sys2Proof/Machine/Fetch.lean ====
section
/-! DEFINITION. Sub-step 1 of a Step (40_datapath.md R140), and the installation of a control word in a slot. -/

namespace Sys2Proof.Machine

/-- The fetch: the microinstruction in slot MPC, or the fatal error of an Empty slot (60_exceptions.md R260). -/
def fetch (s : State) : Except Fault MicroInstr :=
  match ControlStore.slot s.cs s.mpc with
  | some slot => .ok slot.mi
  | none => .error (.fatal s.mpc)

/-- The slot a control word is loaded as: decoded, with the breakpoint flag false (30_encoding.md R101, 10_state.md
R33). -/
def freshSlot (w : ControlWord) : Slot := { mi := decodeFields w, bp := false }

/-- The state in which the next Step fetches `w`: slot MPC holds it and no fault is recorded, since a Step has no meaning
while one is (40_datapath.md R141). -/
def State.withControlWord (s : State) (w : ControlWord) : State :=
  { s with cs := ControlStore.define s.cs s.mpc (freshSlot w), fault := none }

end Sys2Proof.Machine
end

