-- ==== Sys2Proof/Machine/Step.lean ====
section
/-! DEFINITION. The Step (40_datapath.md R140, R141): the machine's one transition of its own. A Step can be called
whatever `State` and `Desired` hold (44_host_interface.md R239). -/

namespace Sys2Proof.Machine

/-- Step() (R140, R141). With a fault recorded it has no meaning and reports that fault again. Otherwise it fetches, and
either records the fatal error of an Empty slot or runs the microinstruction. -/
def step (s : State) : Host.Outcome State Fault Refusal :=
  match s.fault with
  | some f => .fault f
  | none =>
    match fetch s with
    | .error f => .next (raise f s)
    | .ok m => exec (nameOf m) s

/-- `s` with the control word of `nbits` bits `w` in the slot the next Step fetches. -/
def State.withFetchWord (s : State) (nbits w : Nat) : State :=
  s.withControlWord (tableWord nbits w)

end Sys2Proof.Machine
end

