-- ==== Sys2Proof/Machine/Disassemble.lean ====
section
/-! DEFINITION. The disassembler's rendering of a microinstruction (30_encoding.md R116). It is display only and no
other definition reads it. -/

namespace Sys2Proof.Machine

/-- The letters of the scratch registers, in index order (10_state.md R21). -/
def scratchNames : List String := ["a", "b", "c", "d", "e", "f"]

/-- The name of a register (R116): a role's, or the letter of a scratch register. -/
def registerName (r : RegIndex) (i : RegIx) : String :=
  if i = r.pc then "pc"
  else if i = r.ac then "ac"
  else if i = r.sp then "sp"
  else if i = r.ir then "ir"
  else if i = r.tir then "tir"
  else if i = r.zero then "0"
  else if i = r.one then "1"
  else if i = r.mone then "-1"
  else if i = r.amask then "amask"
  else if i = r.smask then "smask"
  else
    let before := (List.range i.toNat).filter fun j => decide (BitVec.ofNat 4 j ∉ r.roles)
    scratchNames.getD before.length "?"

/-- The source of the A input (R116). -/
def sourceName (r : RegIndex) (m : MicroInstr) : String :=
  match m.amux with
  | .mbr => "mbr"
  | .reg => registerName r m.a

/-- The ALU term (R116). -/
def aluTerm (r : RegIndex) (m : MicroInstr) : String :=
  match m.alu with
  | .add => sourceName r m ++ " + " ++ registerName r m.b
  | .and => "band(" ++ sourceName r m ++ ", " ++ registerName r m.b ++ ")"
  | .passA => sourceName r m
  | .invA => "inv(" ++ sourceName r m ++ ")"

/-- The term wrapped in the shift (R116). -/
def shiftedTerm (r : RegIndex) (m : MicroInstr) : String :=
  match m.sh with
  | .none => aluTerm r m
  | .right => "rshift(" ++ aluTerm r m ++ ")"
  | .left => "lshift(" ++ aluTerm r m ++ ")"
  | .reserved => "shift3(" ++ aluTerm r m ++ ")"

/-- The statements of a microinstruction, each without its final semicolon, in the order of R116. -/
def statements (r : RegIndex) (m : MicroInstr) : List String :=
  (if m.mar then ["mar:=" ++ registerName r m.b] else [])
    ++ (if m.mbr then ["mbr:=" ++ shiftedTerm r m] else [])
    ++ (if m.enc then [registerName r m.c ++ ":=" ++ shiftedTerm r m] else [])
    ++ (if !m.mbr && !m.enc && decide (m.cond = .negative ∨ m.cond = .zero) then ["alu:=" ++ shiftedTerm r m] else [])
    ++ (if m.rd then ["rd"] else [])
    ++ (if m.wr then ["wr"] else [])
    ++ (match m.cond with
        | .none => []
        | .negative => ["if n then goto " ++ toString m.addr.toNat]
        | .zero => ["if z then goto " ++ toString m.addr.toNat]
        | .jump => ["goto " ++ toString m.addr.toNat])

/-- The text of a microinstruction: its statements, each ended by a semicolon (R116). -/
def disassemble (r : RegIndex) (m : MicroInstr) : String :=
  String.intercalate " " ((statements r m).map fun t => t ++ ";")

/-- The word the assembly rule gives the statements of `m` (R117): a field no statement sets is 0, and where the ALU
output is not used the ALU passes A. No statement at all is the word 0 (R116). -/
def assembled (m : MicroInstr) : MicroInstr :=
  let outputUsed := m.mbr || m.enc || decide (m.cond = .negative ∨ m.cond = .zero)
  let usesB := m.mar || (outputUsed && decide (m.alu = .add ∨ m.alu = .and))
  if !outputUsed && !m.mar && !m.rd && !m.wr && decide (m.cond = .none) then .zero
  else
    { m with
      amux := if outputUsed then m.amux else .reg
      alu := if outputUsed then m.alu else .passA
      sh := if outputUsed then m.sh else .none
      a := if outputUsed && decide (m.amux = .reg) then m.a else 0
      b := if usesB then m.b else 0
      c := if m.enc then m.c else 0
      addr := if m.cond = .none then 0 else m.addr }

end Sys2Proof.Machine
end

