-- ==== Sys2Proof/Machine/Image.lean ====
section
/-! DEFINITION. The image file forms of 20_memory.md R66, which the spec records for compatibility with the loaders: the
contents of a file as the words that LoadControlStore and LoadMemory take. -/

namespace Sys2Proof.Machine

/-- Why the contents of a file are no image. -/
inductive ImageError where
  /-- The bytes end inside a word. -/
  | truncated
  /-- A line is not the required number of binary digits. -/
  | badLine
  deriving DecidableEq, Repr

/-- A binary control-store image: 4-byte big-endian words (R66). -/
def controlStoreImage : List Byte → Except ImageError (List ControlWord)
  | [] => .ok []
  | b3 :: b2 :: b1 :: b0 :: rest =>
    match controlStoreImage rest with
    | .ok ws => .ok ((b3 ++ b2 ++ b1 ++ b0) :: ws)
    | .error e => .error e
  | _ => .error .truncated

/-- A binary memory image: 2-byte big-endian words (R66). -/
def memoryImage : List Byte → Except ImageError (List Word)
  | [] => .ok []
  | hi :: lo :: rest =>
    match memoryImage rest with
    | .ok ws => .ok ((hi ++ lo) :: ws)
    | .error e => .error e
  | _ => .error .truncated

/-- The number written by a line of `n` binary digits, most significant first. -/
def binaryLine (n : Nat) (line : List Char) : Except ImageError (BitVec n) :=
  if line.length = n ∧ line.all (fun c => c = '0' || c = '1') then
    .ok (BitVec.ofNat n (line.foldl (fun v c => 2 * v + (if c = '1' then 1 else 0)) 0))
  else .error .badLine

/-- The words of a textual image, one line of `n` binary digits for each (R66). -/
def textualWords (n : Nat) : List (List Char) → Except ImageError (List (BitVec n))
  | [] => .ok []
  | line :: rest =>
    match binaryLine n line, textualWords n rest with
    | .ok w, .ok ws => .ok (w :: ws)
    | .error e, _ => .error e
    | _, .error e => .error e

/-- A textual control-store image: 32 binary digits a line (R66). -/
def controlStoreText (lines : List (List Char)) : Except ImageError (List ControlWord) := textualWords 32 lines

/-- A textual memory image: 16 binary digits a line (R66). A comment line begins with `#`; it registers a symbol, which
is display only (00_scope.md R5(c)), and holds no word. -/
def memoryText (lines : List (List Char)) : Except ImageError (List Word) :=
  textualWords 16 (lines.filter fun line => decide (line.head? ≠ some '#'))

end Sys2Proof.Machine
end

