-- ==== Sys2Proof/Machine/HostOps.lean ====
section
/-! DEFINITION. The engine operations (44_host_interface.md), Reset (70_reset_and_hazards.md R295) and the run loop
(R236). Each is applied between two Steps (00_scope.md R6). -/

namespace Sys2Proof.Machine

/-! ## Reset -/

/-- The value Reset leaves in a register its list does not name (70_reset_and_hazards.md R292). -/
def resetUnlistedValue (p : Params) (old : Word) : Word :=
  match p.resetUnlisted with
  | .preserve => old
  | .zero => 0

/-- Reset() (R295). `State`, memory, the control store, the breakpoint flags and the queues are left alone (R291,
R293), and the fault record is cleared (R294). The wait of a run loop is left alone too (DESIGN CHOICE, log 31). -/
def resetEngine (s : State) : State :=
  { s with
    desired := .halt
    regs := Vector.ofFn fun i => resetRegister s.params (BitVec.ofFin i) (s.regs.get i)
    mar := resetUnlistedValue s.params s.mar
    rxs := resetUnlistedValue s.params s.rxs
    txs := resetUnlistedValue s.params s.txs
    stgA := none
    stgB := none
    mbr := 0
    mpc := 0
    cycles := 0
    fault := none }

/-! ## Loading and zeroing -/

/-- Slots `k`, `k + 1`, … take the decodings of the words (R230). -/
def installWords (k : Nat) : List ControlWord → ControlStore → ControlStore
  | [], cs => cs
  | w :: ws, cs => installWords (k + 1) ws (put k (some (freshSlot w)) cs)

/-- Cells `k`, `k + 1`, … take the words, as plain stores (R231, 20_memory.md R72). -/
def installCells (k : Nat) : List Word → Memory → Memory
  | [], m => m
  | w :: ws, m => installCells (k + 1) ws (put k (if w = 0 then none else some w) m)

/-- What the host gets back from an operation. -/
inductive Reply where
  | done
  /-- LoadError(expected, actual) of R230 and R231. -/
  | loadError (expected actual : Nat)
  /-- The byte `tx_pop` takes (R241). -/
  | byte (b : Byte)
  /-- The operation is not offered in this state and does nothing: a push into a full RXQ, a pop from an empty TXQ
  (R241, D22). -/
  | notOffered
  deriving DecidableEq, Repr

/-- LoadControlStore (R230): all or nothing; the slots after the last word are left alone (D24). -/
def loadControlStore (ws : List ControlWord) (s : State) : State × Reply :=
  if 256 < ws.length then (s, .loadError 256 ws.length)
  else ({ s with cs := installWords 0 ws s.cs }, .done)

/-- LoadMemory (R231): all or nothing; the cells after the last word are left alone (D24). -/
def loadMemory (ws : List Word) (s : State) : State × Reply :=
  if 4096 < ws.length then (s, .loadError 4096 ws.length)
  else ({ s with mem := installCells 0 ws s.mem }, .done)

/-- ZeroMemory (R232): every cell, the device cells included, becomes 0. -/
def zeroMemory (s : State) : State := { s with mem := [] }

/-- ZeroControlStore (R233): every slot becomes Empty. -/
def zeroControlStore (s : State) : State := { s with cs := [] }

/-! ## Run control and breakpoints -/

/-- SetDesiredState (R235). -/
def setDesired (v : RunState) (s : State) : State := { s with desired := v }

/-- The entry of Run() (R236, D27). The spec is silent on a Run() while a loop is active or waits. The model keeps no
record of an active loop, so that such an entry only writes `State` again and shares the one loop and its wait
(DESIGN CHOICE, log 30). -/
def enterRun (s : State) : State :=
  if s.desired = .run then { s with runState := .run } else s

/-- ToggleBreakpoint (R237): an Empty slot has no flag to flip. -/
def toggleBreakpoint (m : MicroAddr) (s : State) : State :=
  match ControlStore.slot s.cs m with
  | some slot => { s with cs := ControlStore.define s.cs m { slot with bp := !slot.bp } }
  | none => s

/-! ## The serial queues, host side (R241) -/

/-- `rx_push`: not offered on a full queue (D22). -/
def rxPush (b : Byte) (s : State) : State × Reply :=
  if s.rxq.length < s.params.rxqCap then ({ s with rxq := s.rxq ++ [b] }, .done) else (s, .notOffered)

/-- `tx_pop`: the oldest byte. -/
def txPop (s : State) : State × Reply :=
  match s.txq with
  | b :: rest => ({ s with txq := rest }, .byte b)
  | [] => (s, .notOffered)

/-! ## Observation (R240) -/

/-- What the snapshot accessors return. -/
structure Snapshot where
  regs     : Vector Word 16
  mar      : Word
  mbr      : Word
  /-- M[0] to M[4095] as plain cells. -/
  memory   : List Word
  mpc      : MicroAddr
  cycles   : Nat
  runState : RunState
  desired  : RunState
  /-- Slots 0 to 255: the decoded microinstruction with its breakpoint flag, or Empty. -/
  slots    : List (Option Slot)
  deriving DecidableEq, Repr

/-- The snapshot of a state (R240): it reads plain cells, not the live status registers (20_memory.md R72). -/
def snapshot (s : State) : Snapshot :=
  { regs := s.regs
    mar := s.mar
    mbr := s.mbr
    memory := (List.range 4096).map fun a => s.cell (BitVec.ofNat 12 a)
    mpc := s.mpc
    cycles := s.cycles
    runState := s.runState
    desired := s.desired
    slots := (List.range 256).map fun m => ControlStore.slot s.cs (BitVec.ofNat 8 m) }

/-! ## The operations as one type -/

/-- The locked operations and the queue operations of R243. `Step` and the turns of a run loop stand beside them in
`Event`. -/
inductive HostOp where
  | loadControlStore (ws : List ControlWord)
  | loadMemory (ws : List Word)
  | zeroMemory
  | zeroControlStore
  | reset
  | setDesired (v : RunState)
  | enterRun
  | toggleBreakpoint (m : MicroAddr)
  | rxPush (b : Byte)
  | txPop
  deriving DecidableEq, Repr

/-- The state and the reply of an operation. -/
def hostOp : HostOp → State → State × Reply
  | .loadControlStore ws, s => loadControlStore ws s
  | .loadMemory ws, s => loadMemory ws s
  | .zeroMemory, s => (zeroMemory s, .done)
  | .zeroControlStore, s => (zeroControlStore s, .done)
  | .reset, s => (resetEngine s, .done)
  | .setDesired v, s => (setDesired v s, .done)
  | .enterRun, s => (enterRun s, .done)
  | .toggleBreakpoint m, s => (toggleBreakpoint m s, .done)
  | .rxPush b, s => rxPush b s
  | .txPop, s => txPop s

/-! ## The run loop (R236, R238) -/

/-- One turn of the run loop. -/
inductive RunTurn where
  /-- The loop goes on: a Step was done, or is held and will be tried again. -/
  | running (s : State)
  /-- `Halted`: a normal halt. -/
  | halted (s : State)
  /-- `Aborted(f)`. -/
  | aborted (f : Fault) (s : State)
  /-- The Step was refused. No instruction of the model is. -/
  | refused (r : Refusal) (s : State)
  deriving DecidableEq, Repr

/-- The next Step would be held (40_datapath.md R141). -/
def stepHeld (s : State) : Bool :=
  match s.fault, fetch s with
  | none, .ok m =>
    match microCycle m s with
    | .held => true
    | .done _ => false
    | .raised _ => false
  | _, _ => false

/-- The loop's call of Step (R236). A held Step leaves the loop waiting, a raised or recorded fault aborts it. -/
def runStep (s : State) : RunTurn :=
  if stepHeld s then .running { s with awaitingSpace := true }
  else
    match step { s with awaitingSpace := false } with
    | .next t =>
      match t.fault with
      | none => .running t
      | some f => .aborted f { t with runState := .halt }
    | .fault f => .aborted f { s with awaitingSpace := false, runState := .halt }
    | .refused r => .refused r { s with awaitingSpace := false, runState := .halt }

/-- One turn (R236). A loop that waits for space retries its Step once TXQ has space, whatever Desired holds by then.
Otherwise the loop leaves if Desired is not RUN, and calls Step if it is. The test of Desired and the Step are one
transition, so that a host operation lands before both or after both and never between them (DESIGN CHOICE, log 29).
The retried Step is the one the state then fetches: where a Reset, a load or a manual Step changed what the next Step
is, the loop still waits while TXQ is full and then runs that Step, Desired untested (DESIGN CHOICE, log 31). -/
def runTurn (s : State) : RunTurn :=
  if s.awaitingSpace then
    if s.txq.length = s.params.txqCap then .running s else runStep s
  else if s.desired = .halt then .halted { s with runState := .halt }
  else runStep s

/-- The state a turn leaves. -/
def RunTurn.state : RunTurn → State
  | .running s => s
  | .halted s => s
  | .aborted _ s => s
  | .refused _ s => s

/-- At most `n` turns of the loop. -/
def runLoop : Nat → State → RunTurn
  | 0, s => .running s
  | n + 1, s =>
    match runTurn s with
    | .running t => runLoop n t
    | r => r

/-- Run() (R236), cut off after `n` turns. -/
def runEngine (n : Nat) (s : State) : RunTurn := runLoop n (enterRun s)

/-! ## Interleavings (00_scope.md R6, 20_memory.md R73) -/

/-- One atomic transition: an operation of the host, a manual Step (R239) or a turn of the run loop. A turn may stand
anywhere in a sequence, also where no Run() is active (DESIGN CHOICE, log 30). -/
inductive Event where
  | host (op : HostOp)
  | step
  | turn
  deriving DecidableEq, Repr

/-- The state after a transition. A Step that reports a recorded fault leaves the state. A turn is
accepted whether or not a Run() was entered, and after `Halted` or `Aborted` (DESIGN CHOICE, log 30). -/
def afterEvent (e : Event) (s : State) : State :=
  match e with
  | .host op => (hostOp op s).1
  | .step =>
    match step s with
    | .next t => t
    | .fault _ => s
    | .refused _ => s
  | .turn => (runTurn s).state

/-- The state after a sequence of transitions, the first one first. -/
def afterEvents : List Event → State → State
  | [], s => s
  | e :: es, s => afterEvents es (afterEvent e s)

end Sys2Proof.Machine
end

