-- ==== Sys2Proof/Safety.lean ====
section
/-! DEFINITION. The words in which claims are stated: when a Step runs to its end, what it leaves in the datapath, and
the invariant of the machine. -/

namespace Sys2Proof.Machine

/-! ## When a Step runs to its end (40_datapath.md R141) -/

/-- Sub-step 6 raises ConstantWrite (40_datapath.md R145). -/
def constantWriteFaults (m : MicroInstr) (s : State) : Bool :=
  m.enc && s.isConstantReg m.c && decide (s.params.constWritePolicy = .fault)

/-- The request of `m` is a write alone (43_memory_requests.md R204). -/
def MicroInstr.writes (m : MicroInstr) : Bool := !m.rd && m.wr

/-- The request of `m` is a read alone (43_memory_requests.md R201). -/
def MicroInstr.reads (m : MicroInstr) : Bool := m.rd && !m.wr

/-- `m` requests a read and a write together (43_memory_requests.md R207). -/
def MicroInstr.halts (m : MicroInstr) : Bool := m.rd && m.wr

/-- A write cycle 2 that finds no snapshot (43_memory_requests.md R204). -/
def writeIsStale (m : MicroInstr) (s : State) : Bool :=
  MicroInstr.writes m && s.stgA.isSome && s.stgB.isNone

/-- A write cycle 2 that would push onto a full TXQ (20_memory.md R71). -/
def writeIsHeld (m : MicroInstr) (s : State) : Bool :=
  match s.stgA, s.stgB with
  | some a, some _ => MicroInstr.writes m && s.transmitBlocked a
  | _, _ => false

/-- No sub-step of the Step raises a fault or holds it. -/
def cycleCompletes (m : MicroInstr) (s : State) : Bool :=
  !shiftFaults m s && !constantWriteFaults m s && !writeIsStale m s && !writeIsHeld m s

/-! ## What a Step leaves -/

/-- Register `i` takes the output of the Step (40_datapath.md R144, R145). -/
def writesRegister (m : MicroInstr) (s : State) (i : RegIx) : Bool :=
  m.enc && decide (i = m.c) && !s.isConstantReg i

/-- Sub-steps 2 to 7 from `s` to `t` with function result `f` and output `out`: MAR takes the B bus, each register but
the destination is kept, and the flags of `f` decide the MPC. MBR takes the output, except where a read cycle 2 of the
same Step loads it (40_datapath.md R142 to R144, 42_sequencing.md R180). -/
def Latched (m : MicroInstr) (f out : Word) (s t : State) : Prop :=
  t.mar = (if m.mar then s.readReg m.b else s.mar) ∧
  ((MicroInstr.reads m && s.stgA.isSome) = false → t.mbr = (if m.mbr then out else s.mbr)) ∧
  (∀ i, t.readReg i = if writesRegister m s i then out else s.readReg i) ∧
  t.mpc = (if condTaken m.cond (f.getLsbD 15) (decide (f = 0)) then m.addr else s.mpc + 1)

/-- No Step changes the parameters, the control store with its flags, the run state, the run loop's wait, or an absent
fault record (10_state.md R31, R33, R36; 44_host_interface.md R239). -/
def StepFrame (s t : State) : Prop :=
  t.params = s.params ∧ t.cs = s.cs ∧ t.runState = s.runState ∧ t.awaitingSpace = s.awaitingSpace ∧ t.fault = s.fault

/-- The poll at the end of a Step takes a byte from the queue of `s` (43_memory_requests.md R210). -/
def pollTakes (s : State) : Bool := s.rxEnabled && !s.rxReady && !s.rxq.isEmpty

/-- The slot at the MPC of `s` has its breakpoint flag set (42_sequencing.md R183). -/
def breakpointAt (s : State) : Bool :=
  match ControlStore.slot s.cs s.mpc with
  | some slot => slot.bp
  | none => false

/-! ## The invariant -/

/-- Every constant register holds its value (10_state.md R22, R23). -/
def constantsHold (s : State) : Bool :=
  let r := s.params.regIndex
  decide (s.readReg r.zero = 0x0000 ∧ s.readReg r.one = 0x0001 ∧ s.readReg r.mone = 0xFFFF
    ∧ s.readReg r.amask = s.params.amaskValue ∧ s.readReg r.smask = s.params.smaskValue)

/-- RXS is one of the three conditions of 10_state.md R38. -/
def rxsLegal (s : State) : Bool :=
  decide (s.rxs = 0 ∨ s.rxs = rxPending s.params ∨ s.rxs = readyVal s.params)

/-- TXS is disabled or ready (10_state.md R39). -/
def txsLegal (s : State) : Bool := decide (s.txs = 0 ∨ s.txs = readyVal s.params)

/-- No queue holds more than its capacity (10_state.md R41). -/
def queuesBounded (s : State) : Bool :=
  decide (s.rxq.length ≤ s.params.rxqCap ∧ s.txq.length ≤ s.params.txqCap)

/-- The invariant of the machine: the parameters lie in their domains, the constant registers hold their values, the
status registers hold legal values, the queues are bounded, and memory and the control store are canonical. -/
def State.wf (s : State) : Bool :=
  s.params.wf && constantsHold s && rxsLegal s && txsLegal s && queuesBounded s
    && Memory.wf s.mem && ControlStore.wf s.cs

end Sys2Proof.Machine
end

