-- ==== Sys2Proof/Certificates/Slice0/Obligations.lean ====
section
/-! DEFINITION. The statements about the machine, for the provers. -/

open Sys2Proof Sys2Proof.Machine

/-- Decoding cuts each field out of the word as an unsigned number.

For every 32-bit word w, each of the thirteen decoded fields is the number at the bit positions R102 gives it, read
from w as a number; the decoded instruction stands for exactly these fields; and the slot the word is loaded as has
its breakpoint flag false.

Stated: R102. -/
def Obligations.DecodeCutsOutEveryField : Prop :=
  ∀ w : ControlWord,
    (decodeFields w).amux.code.toNat = w.toNat / 2 ^ 31 ∧
    (decodeFields w).cond.code.toNat = w.toNat / 2 ^ 29 % 4 ∧
    (decodeFields w).alu.code.toNat = w.toNat / 2 ^ 27 % 4 ∧
    (decodeFields w).sh.code.toNat = w.toNat / 2 ^ 25 % 4 ∧
    ((decodeFields w).mbr = true ↔ w.toNat / 2 ^ 24 % 2 = 1) ∧
    ((decodeFields w).mar = true ↔ w.toNat / 2 ^ 23 % 2 = 1) ∧
    ((decodeFields w).rd = true ↔ w.toNat / 2 ^ 22 % 2 = 1) ∧
    ((decodeFields w).wr = true ↔ w.toNat / 2 ^ 21 % 2 = 1) ∧
    ((decodeFields w).enc = true ↔ w.toNat / 2 ^ 20 % 2 = 1) ∧
    (decodeFields w).c.toNat = w.toNat / 2 ^ 16 % 16 ∧
    (decodeFields w).b.toNat = w.toNat / 2 ^ 12 % 16 ∧
    (decodeFields w).a.toNat = w.toNat / 2 ^ 8 % 16 ∧
    (decodeFields w).addr.toNat = w.toNat % 256 ∧
    (decode w).control = decodeFields w ∧
    (freshSlot w).mi = decodeFields w ∧ (freshSlot w).bp = false

/-- Encode(Decode(w)) = w for every word, with the encoding formula of R103.

For every 32-bit word w, encoding the decoded instruction gives back w; and for every microinstruction the encoded
word is the disjunction of its thirteen fields, each shifted left by the amount R103 gives. R103 is an inference the
spec marks as derived from R100 and R102.

Derived: R103. -/
def Obligations.EncodeOfDecodeIsTheWord : Prop :=
  (∀ w : ControlWord, encode (decode w) = w) ∧
  ∀ m : MicroInstr,
    (encodeFields m).toNat =
      m.amux.code.toNat <<< 31 ||| m.cond.code.toNat <<< 29 ||| m.alu.code.toNat <<< 27 ||| m.sh.code.toNat <<< 25
        ||| m.mbr.toNat <<< 24 ||| m.mar.toNat <<< 23 ||| m.rd.toNat <<< 22 ||| m.wr.toNat <<< 21
        ||| m.enc.toNat <<< 20 ||| m.c.toNat <<< 16 ||| m.b.toNat <<< 12 ||| m.a.toNat <<< 8 ||| m.addr.toNat

/-- Decoding the encoding of a well-formed instruction gives the instruction back.

For every well-formed instruction of the whole table, with every operand at every value, decode (encode i) = i. Which
of a word's names is the well-formed one is the model's choice (log 7).

Derived: 30_encoding.md R101, 30_encoding.md R103, 30_encoding.md R119. -/
def Obligations.DecodeOfEncodeIsTheInstruction : Prop :=
  ∀ i : Instr, i.wellFormed = true → decode (encode i) = i

/-- The decoder gives every word a well-formed name, and the name of a word makes no difference to its meaning.

For every 32-bit word the decoder's answer is well formed; and for every instruction term i, well formed or not, and
every state, executing the decoder's name for i's word is executing i. So every row of the table that a word selects
gives that word the same Step (log 7, log 8).

Derived: 30_encoding.md R101, 30_encoding.md R119. -/
def Obligations.EveryNameOfAWordMeansTheSame : Prop :=
  (∀ w : ControlWord, (decode w).wellFormed = true) ∧
  ∀ (i : Instr) (s : State), exec (decode (encode i)) s = exec i s

/-- Words written out in the spec decode to the fields they stand for, under the names the model chose (log 7).

The words 0, 90DA6000, 141A0600 and 70000003 of 95_test_vectors.md 2.1 and 10600000 (`rd; wr;`) of its L1.7 decode to
the fields the spec gives them. That a word with two or more active groups is named MICROINSTRUCTION, and the word 0
NOP, is the model's choice of name (log 7).

Derived: 95_test_vectors.md 2.1, 95_test_vectors.md L1.7, 30_encoding.md R102. -/
def Obligations.WordsOfTheSpecDecode : Prop :=
  decode 0x00000000 = .nop ∧
  decode 0x90DA6000 = .microinstruction { MicroInstr.zero with amux := .mbr, alu := .passA, mar := true, rd := true, enc := true, c := 10, b := 6 } ∧
  decode 0x141A0600 = .microinstruction { MicroInstr.zero with alu := .passA, sh := .left, enc := true, c := 10, a := 6 } ∧
  decode 0x70000003 = .microinstruction { MicroInstr.zero with cond := .jump, alu := .passA, addr := 3 } ∧
  decode 0x10600000 = .microinstruction { MicroInstr.zero with alu := .passA, rd := true, wr := true }

/-- A field a microinstruction does not use never changes the outcome.

A is ignored when AMUX = 1, C when ENC = 0, ADDR when COND = 0, and B as the ALU's B input when ALU = 2 or 3 (with MAR
= 0, so that B has no other use): in each case exec gives the same answer whatever the field holds. With MAR = 1 and
ALU = 2 or 3, B still reaches MAR: a completed Step leaves R[B] there. R113 is an inference the spec marks as derived;
that the constructor of a row carries the other fields of its word is log 8.

Derived: R113. -/
def Obligations.IgnoredFieldsDoNotMatter : Prop :=
  (∀ (m : MicroInstr) (x : RegIx) (s : State), exec (.amuxMbr { m with a := x }) s = exec (.amuxMbr m) s) ∧
  (∀ (m : MicroInstr) (x : RegIx) (s : State), exec (.regHold { m with c := x }) s = exec (.regHold m) s) ∧
  (∀ (m : MicroInstr) (x : MicroAddr) (s : State), exec (.condNone { m with addr := x }) s = exec (.condNone m) s) ∧
  (∀ (m : MicroInstr) (x : RegIx) (s : State), m.mar = false →
    exec (.aluPassA { m with b := x }) s = exec (.aluPassA m) s ∧
    exec (.aluInvA { m with b := x }) s = exec (.aluInvA m) s) ∧
  (∀ (m : MicroInstr) (s : State) (fn : AluFn), (fn = .passA ∨ fn = .invA) → m.mar = true →
    MicroInstr.halts m = false → cycleCompletes { m with alu := fn } s = true →
    ∃ t, exec (.microinstruction { m with alu := fn }) s = .next t ∧ t.mar = s.readReg m.b)

/-- A Step runs the instruction decoded from the word in slot MPC, whatever State and Desired hold.

If no fault is recorded and slot MPC is Defined with the decoding of w, whatever its breakpoint flag, then step is
exec of decode w at that state: nothing is added around exec (the MPC moves inside it, at sub-step 7). The state
withFetchWord makes is such a state. That a word has one name is the model's choice (log 7, log 8), withFetchWord its
helper (log 17, log 28); that a recorded fault comes before the fetch is the spec's decision D28 (log 6).

Derived: 40_datapath.md R140, 44_host_interface.md R239. -/
def Obligations.StepRunsTheFetchedInstruction : Prop :=
  (∀ (s : State) (w : ControlWord) (bp : Bool),
    s.fault = none → ControlStore.slot s.cs s.mpc = some { mi := decodeFields w, bp := bp } → step s = exec (decode w) s) ∧
  ∀ (s : State) (w : ControlWord),
    step (s.withFetchWord 32 w.toNat) = exec (decode w) (s.withFetchWord 32 w.toNat)

/-- Fetching an Empty slot records Fatal(MPC), changes nothing else and aborts a run.

If no fault is recorded and slot MPC is Empty, step answers the state with FAULT = Fatal(MPC) and nothing else
changed, whatever led to that MPC; its cause code is 0; and a run loop turn in that state aborts with Fatal(MPC),
distinctly from a normal halt. That the error is fatal is the source's; the record FAULT, its code and the form of the
abort are the spec's decision D28 (log 6). The turn and the waiting field are the model's form of Run() (log 19, log
29).

Derived: 60_exceptions.md R260. -/
def Obligations.FetchOfAnEmptySlotIsFatal : Prop :=
  ∀ s : State, s.fault = none → ControlStore.slot s.cs s.mpc = none →
    step s = .next { s with fault := some (.fatal s.mpc) } ∧
    faultCode (.fatal s.mpc) = 0 ∧
    (s.desired = .run → s.awaitingSpace = false →
      runTurn s = .aborted (.fatal s.mpc) { s with fault := some (.fatal s.mpc), runState := .halt })

/-- A recorded fault is reported by every Step and is cleared only by Reset.

While FAULT holds f, step answers fault f; every transition of the machine, a Step, a turn of the run loop or an
operation of the host other than Reset, leaves FAULT = f; and Reset clears it. The sticky record is the spec's
decision D28 (log 6); which transitions there are is the model's reading (log 19, log 22, log 30).

Derived: 70_reset_and_hazards.md R294, 10_state.md R43. -/
def Obligations.RecordedFaultStaysUntilReset : Prop :=
  ∀ (s : State) (f : Fault), s.fault = some f →
    step s = .fault f ∧
    (∀ e : Event, e ≠ .host .reset → (afterEvent e s).fault = some f) ∧
    (afterEvent (.host .reset) s).fault = none

/-- The three model faults and the Hold: their causes, their codes, their order, and that they change nothing but FAULT.

For every instruction and every state without a recorded fault: SH = 3 under SH3_POLICY = fault records ReservedShift
(code 1); otherwise ENC = 1 with a constant register as C under CONST_WRITE_POLICY = fault records ConstantWrite (code
2); otherwise a write cycle 2 with STG_B = None records StaleWriteStaging (code 3); otherwise a write cycle 2 to
TXDATA_ADDR from an enabled transmitter onto a full TXQ leaves the state as it is; and otherwise the Step runs to its
end and records no fault. The causes are the spec's decisions D8, D10, D11 and D21 (log 3, log 11), and R266 is marked
as derived; that a raised fault and a held Step answer a next state is the model's choice (log 5, log 6).

Derived: 60_exceptions.md R265, 60_exceptions.md R266, 20_memory.md R71. -/
def Obligations.ModelFaultsInSubStepOrder : Prop :=
  faultCode .reservedShift = 1 ∧ faultCode .constantWrite = 2 ∧ faultCode .staleWriteStaging = 3 ∧
  ∀ (i : Instr) (s : State), s.fault = none →
    let m := i.control
    let reserved := m.sh = .reserved ∧ s.params.sh3Policy = .fault
    let constant := m.enc = true ∧ m.c ∈ s.params.regIndex.constants ∧ s.params.constWritePolicy = .fault
    let secondWrite := m.rd = false ∧ m.wr = true ∧ s.stgA.isSome = true
    let full := ∃ a, s.stgA = some a ∧ a ≠ s.params.rxStatusAddr ∧ a ≠ s.params.txStatusAddr ∧ a = s.params.txDataAddr ∧
      s.txs.getLsbD s.params.enableBit.val = true ∧ s.txq.length = s.params.txqCap
    (reserved → exec i s = .next { s with fault := some .reservedShift }) ∧
    (¬ reserved → constant → exec i s = .next { s with fault := some .constantWrite }) ∧
    (¬ reserved → ¬ constant → secondWrite → s.stgB = none → exec i s = .next { s with fault := some .staleWriteStaging }) ∧
    (¬ reserved → ¬ constant → secondWrite → s.stgB ≠ none → full → exec i s = .next s) ∧
    (¬ reserved → ¬ constant → ¬ (secondWrite ∧ (s.stgB = none ∨ full)) →
      cycleCompletes m s = true ∧ ∃ t, exec i s = .next t ∧ t.fault = none)

/-- The all-zero word is a no-operation that is counted, checked and polled.

The word 0 decodes to NOP; from every state, NOP answers the state with MPC + 1 and CYCLES + 1 after its breakpoint
check and receive poll. It latches nothing: registers, MAR, MBR, staging, TXS and TXQ are those before. It requests no
access: every cell is as before, but for the receiver data cell when the poll takes a byte. R114 is an inference the
spec marks as derived. That MPC 255 advances to 0 is its decision D12 (log 9), that CYCLES never wraps D13 (log 10),
that the breakpoint check of an Empty slot has no effect D23 (log 13), and what the poll takes D20 and D29 (log 15).

Derived: 30_encoding.md R114, 42_sequencing.md R180. -/
def Obligations.NopIsCountedAndFallsThrough : Prop :=
  decode 0 = .nop ∧
  ∀ s : State, ∃ t, exec .nop s = .next t ∧
    t = receivePoll (breakpointCheck { s with mpc := s.mpc + 1, cycles := s.cycles + 1 }) ∧
    t.mpc = s.mpc + 1 ∧ t.cycles = s.cycles + 1 ∧
    t.regs = s.regs ∧ t.mar = s.mar ∧ t.mbr = s.mbr ∧ t.stgA = s.stgA ∧ t.stgB = s.stgB ∧ t.txs = s.txs ∧ t.txq = s.txq ∧
    StepFrame s t ∧ ∀ a, a ≠ s.params.rxDataAddr ∨ pollTakes s = false → t.cell a = s.cell a

/-- Every instruction but a read with a write runs to its end, with the datapath effect, the cycle count and the breakpoint check of a Step.

For every instruction whose word is no read with a write (such a word, and so the row MEM_RDWR_HALT, has its own
statement, ReadWithWriteHalts) and every state in which no sub-step raises a fault or holds the Step: exec answers a
next state in which MAR, MBR, the registers and the MPC are as sub-steps 2 to 7 leave them, CYCLES is one more,
Desired is HALT if the slot at the new MPC has its breakpoint flag set and as before otherwise, and everything else a
Step may not touch is as before. The next-MPC clause rests on the spec's decision D12 that the increment is modulo 256
(log 9) and on its inference that N is bit 15 (log 12), the constant register kept under policy discard on D11 (log
3), and the counter that never wraps on D13 (log 10). That the breakpoint check of an Empty slot has no effect is D23
(log 13).

Derived: 40_datapath.md R140, 40_datapath.md R141, 40_datapath.md R142, 40_datapath.md R143, 40_datapath.md R144, 41_alu_shifter.md R166, 42_sequencing.md R180, 42_sequencing.md R183. -/
def Obligations.CompletedStepOfEveryInstruction : Prop :=
  ∀ (i : Instr) (s : State), cycleCompletes i.control s = true → MicroInstr.halts i.control = false →
    ∃ t, exec i s = .next t ∧
      Latched i.control (cycleResult i.control s) (cycleOutput i.control s) s t ∧
      t.cycles = s.cycles + 1 ∧
      t.desired = (if breakpointAt t then .halt else s.desired) ∧
      StepFrame s t

/-- CYCLES grows by one exactly in a Step that runs to its end.

Whenever exec answers a next state, CYCLES is one more if the Step ran to its end and was no read with a write (or was
one under RDWR_HALT_POINT = complete), and unchanged otherwise: a fault, a Hold and a read-write halt under the other
policies are not counted. An unbounded counter is the spec's decision D13 (log 10), what a read with a write counts D9
(log 3, log 21), and that a raised fault and a held Step answer a next state the model's choice (log 5, log 6).

Derived: 60_exceptions.md R271, 10_state.md R37, 43_memory_requests.md R207. -/
def Obligations.CyclesCountCompletedSteps : Prop :=
  ∀ (i : Instr) (s t : State), exec i s = .next t →
    t.cycles = s.cycles +
      (if cycleCompletes i.control s = true ∧
          (MicroInstr.halts i.control = false ∨ s.params.rdwrHaltPoint = .complete) then 1 else 0)

/-- ALU_ADD: the result is A + B modulo 2^16, with no trap.

For every word that selects the row and every state in which the Step runs to its end (a read with a write has its own
statement): the function result is the sum of the two buses, modulo 2^16; MBR and the destination register take it
after the shifter, the flags of it decide the MPC, and MAR and the other registers are as the word's other fields say.
The word's ALU bits 28:27 are 0. The next-MPC clause rests on the spec's decision D12 that the increment is modulo 256
(log 9) and on its inference that N is bit 15 (log 12), the constant register kept under policy discard on D11 (log
3), and the counter that never wraps on D13 (log 10).

Derived: 41_alu_shifter.md R160, 42_sequencing.md R180. -/
def Obligations.AluAddIsSumModulo : Prop :=
  ∀ (m : MicroInstr) (s : State),
    (encode (.aluAdd m)).extractLsb' 27 2 = 0 ∧
    (cycleCompletes { m with alu := .add } s = true → MicroInstr.halts m = false →
      ∃ t, exec (.aluAdd m) s = .next t ∧
        Latched m (aBus m s + bBus m s) (shiftOutput m.sh (aBus m s + bBus m s)) s t ∧ StepFrame s t ∧ t.cycles = s.cycles + 1)

/-- ALU_AND: the result is A AND B.

For every word that selects the row and every state in which the Step runs to its end (a read with a write has its own
statement): the function result is the bitwise AND of the two buses; MBR and the destination register take it after
the shifter, the flags of it decide the MPC, and MAR and the other registers are as the word's other fields say. The
word's ALU bits 28:27 are 1. The next-MPC clause rests on the spec's decision D12 that the increment is modulo 256
(log 9) and on its inference that N is bit 15 (log 12), the constant register kept under policy discard on D11 (log
3), and the counter that never wraps on D13 (log 10).

Derived: 41_alu_shifter.md R161, 42_sequencing.md R180. -/
def Obligations.AluAndIsBitwise : Prop :=
  ∀ (m : MicroInstr) (s : State),
    (encode (.aluAnd m)).extractLsb' 27 2 = 1 ∧
    (cycleCompletes { m with alu := .and } s = true → MicroInstr.halts m = false →
      ∃ t, exec (.aluAnd m) s = .next t ∧
        Latched m (aBus m s &&& bBus m s) (shiftOutput m.sh (aBus m s &&& bBus m s)) s t ∧ StepFrame s t ∧ t.cycles = s.cycles + 1)

/-- ALU_PASSA: the result is A, whatever B is.

For every word that selects the row and every state in which the Step runs to its end (a read with a write has its own
statement): the function result is the A bus; MBR and the destination register take it after the shifter, the flags of
it decide the MPC, and MAR and the other registers are as the word's other fields say. The word's ALU bits 28:27 are
2. The next-MPC clause rests on the spec's decision D12 that the increment is modulo 256 (log 9) and on its inference
that N is bit 15 (log 12), the constant register kept under policy discard on D11 (log 3), and the counter that never
wraps on D13 (log 10).

Derived: 41_alu_shifter.md R162, 42_sequencing.md R180. -/
def Obligations.AluPassAIsTheABus : Prop :=
  ∀ (m : MicroInstr) (s : State),
    (encode (.aluPassA m)).extractLsb' 27 2 = 2 ∧
    (cycleCompletes { m with alu := .passA } s = true → MicroInstr.halts m = false →
      ∃ t, exec (.aluPassA m) s = .next t ∧
        Latched m (aBus m s) (shiftOutput m.sh (aBus m s)) s t ∧ StepFrame s t ∧ t.cycles = s.cycles + 1)

/-- ALU_INVA: the result is the complement of A.

For every word that selects the row and every state in which the Step runs to its end (a read with a write has its own
statement): the function result is the complement of the A bus; MBR and the destination register take it after the
shifter, the flags of it decide the MPC, and MAR and the other registers are as the word's other fields say. The
word's ALU bits 28:27 are 3. The next-MPC clause rests on the spec's decision D12 that the increment is modulo 256
(log 9) and on its inference that N is bit 15 (log 12), the constant register kept under policy discard on D11 (log
3), and the counter that never wraps on D13 (log 10).

Derived: 41_alu_shifter.md R163, 42_sequencing.md R180. -/
def Obligations.AluInvAIsTheComplement : Prop :=
  ∀ (m : MicroInstr) (s : State),
    (encode (.aluInvA m)).extractLsb' 27 2 = 3 ∧
    (cycleCompletes { m with alu := .invA } s = true → MicroInstr.halts m = false →
      ∃ t, exec (.aluInvA m) s = .next t ∧
        Latched m (~~~(aBus m s)) (shiftOutput m.sh (~~~(aBus m s))) s t ∧ StepFrame s t ∧ t.cycles = s.cycles + 1)

/-- SH_NONE: the output is the function result.

For every word that selects the row and every state in which the Step runs to its end (a read with a write has its own
statement): what MBR and the destination register take is the function result f, while the flags that decide the MPC
are those of f before the shift. The word's SH bits 26:25 are 0. The next-MPC clause rests on the spec's decision D12
that the increment is modulo 256 (log 9) and on its inference that N is bit 15 (log 12), the constant register kept
under policy discard on D11 (log 3), and the counter that never wraps on D13 (log 10).

Derived: 41_alu_shifter.md R167, 42_sequencing.md R180. -/
def Obligations.ShiftNoneKeepsTheResult : Prop :=
  ∀ (m : MicroInstr) (s : State),
    (encode (.shNone m)).extractLsb' 25 2 = 0 ∧
    (cycleCompletes { m with sh := .none } s = true → MicroInstr.halts m = false →
      ∃ t, exec (.shNone m) s = .next t ∧
        Latched m (cycleResult m s) (cycleResult m s) s t ∧ StepFrame s t ∧ t.cycles = s.cycles + 1)

/-- SH_RIGHT: the output is f / 2, zero filled, and the flags are of f.

For every word that selects the row and every state in which the Step runs to its end (a read with a write has its own
statement): what MBR and the destination register take is f shifted right by one with zero fill, that is f / 2, while
the flags that decide the MPC are those of f before the shift. The word's SH bits 26:25 are 1. The next-MPC clause
rests on the spec's decision D12 that the increment is modulo 256 (log 9) and on its inference that N is bit 15 (log
12), the constant register kept under policy discard on D11 (log 3), and the counter that never wraps on D13 (log 10).

Derived: 41_alu_shifter.md R168, 42_sequencing.md R180. -/
def Obligations.ShiftRightFillsWithZero : Prop :=
  ∀ (m : MicroInstr) (s : State),
    (encode (.shRight m)).extractLsb' 25 2 = 1 ∧
    (cycleCompletes { m with sh := .right } s = true → MicroInstr.halts m = false →
      ∃ t, exec (.shRight m) s = .next t ∧
        Latched m (cycleResult m s) (BitVec.ofNat 16 ((cycleResult m s).toNat / 2)) s t ∧ StepFrame s t ∧ t.cycles = s.cycles + 1)

/-- SH_LEFT: the output is 2f modulo 2^16, and the flags are of f.

For every word that selects the row and every state in which the Step runs to its end (a read with a write has its own
statement): what MBR and the destination register take is f shifted left by one, that is 2f modulo 2^16, while the
flags that decide the MPC are those of f before the shift. The word's SH bits 26:25 are 2. The next-MPC clause rests
on the spec's decision D12 that the increment is modulo 256 (log 9) and on its inference that N is bit 15 (log 12),
the constant register kept under policy discard on D11 (log 3), and the counter that never wraps on D13 (log 10).

Derived: 41_alu_shifter.md R169, 42_sequencing.md R180. -/
def Obligations.ShiftLeftDropsTheTopBit : Prop :=
  ∀ (m : MicroInstr) (s : State),
    (encode (.shLeft m)).extractLsb' 25 2 = 2 ∧
    (cycleCompletes { m with sh := .left } s = true → MicroInstr.halts m = false →
      ∃ t, exec (.shLeft m) s = .next t ∧
        Latched m (cycleResult m s) (BitVec.ofNat 16 ((cycleResult m s).toNat * 2)) s t ∧ StepFrame s t ∧ t.cycles = s.cycles + 1)

/-- SH_RESERVED: a model fault with no effect under fault, no shift under none.

Under SH3_POLICY = fault, every word with SH = 3 records ReservedShift and changes nothing else. Under none, where the
Step runs to its end, the output is the function result with the flags of the function result. The word's SH bits
26:25 are 3. The policy is the spec's decision D10 (log 3), the record of the fault D28 (log 6). Under policy none:
the next-MPC clause rests on the spec's decision D12 that the increment is modulo 256 (log 9) and on its inference
that N is bit 15 (log 12), the constant register kept under policy discard on D11 (log 3), and the counter that never
wraps on D13 (log 10).

Derived: 41_alu_shifter.md R170, 41_alu_shifter.md R166, 42_sequencing.md R180. -/
def Obligations.ReservedShiftFollowsItsPolicy : Prop :=
  ∀ (m : MicroInstr) (s : State),
    (encode (.shReserved m)).extractLsb' 25 2 = 3 ∧
    (s.params.sh3Policy = .fault → s.fault = none →
      exec (.shReserved m) s = .next { s with fault := some .reservedShift }) ∧
    (s.params.sh3Policy = .noShift → cycleCompletes { m with sh := .reserved } s = true → MicroInstr.halts m = false →
      ∃ t, exec (.shReserved m) s = .next t ∧
        Latched m (cycleResult m s) (cycleResult m s) s t ∧ StepFrame s t ∧ t.cycles = s.cycles + 1)

/-- Z and N come from the function result before the shift, in every Step, whatever the latches are.

Z is 1 exactly when the function result is 0 and N is its bit 15, that is, the result is at least 2^15. For every word
and every state in which the Step runs to its end (a read with a write has its own statement), the next MPC is the one
these flags of the unshifted result decide, whatever SH, MBR and ENC hold. That N is bit 15 is an inference of the
spec (R166, log 12), that MPC 255 advances to 0 its decision D12 (log 9).

Derived: R166. -/
def Obligations.FlagsAreOfTheResultBeforeTheShift : Prop :=
  (∀ f : Word, (zeroFlag f = true ↔ f = 0) ∧ (negativeFlag f = true ↔ 2 ^ 15 ≤ f.toNat)) ∧
  ∀ (m : MicroInstr) (s : State), cycleCompletes m s = true → MicroInstr.halts m = false →
    ∃ t, exec (.microinstruction m) s = .next t ∧
      t.mpc = (match m.cond with
        | .none => s.mpc + 1
        | .negative => if 2 ^ 15 ≤ (aluResult m.alu (aBus m s) (bBus m s)).toNat then m.addr else s.mpc + 1
        | .zero => if aluResult m.alu (aBus m s) (bBus m s) = 0 then m.addr else s.mpc + 1
        | .jump => m.addr)

/-- COND_NONE: MPC takes MPC + 1 modulo 256.

For every word with COND = 0 and every state in which the Step runs to its end (a read with a write has its own
statement), the next MPC is (MPC + 1) mod 256, and slot 255 falls through to slot 0; if the slot at the new MPC is
Empty, the next Step records Fatal. The word's COND bits 30:29 are 0. That MPC 255 advances to 0 is the spec's
decision D12 (log 9); the record FAULT of the next Step is D28 (log 6).

Derived: 42_sequencing.md R184, 42_sequencing.md R180, 60_exceptions.md R260. -/
def Obligations.CondNoneFallsThrough : Prop :=
  ∀ (m : MicroInstr) (s : State),
    (encode (.condNone m)).extractLsb' 29 2 = 0 ∧
    (cycleCompletes { m with cond := .none } s = true → MicroInstr.halts m = false →
      ∃ t, exec (.condNone m) s = .next t ∧ t.mpc.toNat = (s.mpc.toNat + 1) % 256 ∧ (s.mpc = 255 → t.mpc = 0) ∧
        StepFrame s t ∧
        (s.fault = none → ControlStore.slot s.cs t.mpc = none → step t = .next { t with fault := some (.fatal t.mpc) }))

/-- COND_N: MPC takes ADDR exactly if bit 15 of the unshifted result is 1.

For every word with COND = 1 and every state in which the Step runs to its end (a read with a write has its own
statement), the next MPC is ADDR if the function result before the shift has bit 15 set, and (MPC + 1) mod 256
otherwise. The word's COND bits 30:29 are 1. That N is bit 15 is an inference of the spec (log 12); the increment is
modulo 256 by its decision D12 (log 9).

Derived: 42_sequencing.md R185, 42_sequencing.md R180, 41_alu_shifter.md R166. -/
def Obligations.CondNBranchesOnNegative : Prop :=
  ∀ (m : MicroInstr) (s : State),
    (encode (.condN m)).extractLsb' 29 2 = 1 ∧
    (cycleCompletes { m with cond := .negative } s = true → MicroInstr.halts m = false →
      ∃ t, exec (.condN m) s = .next t ∧ StepFrame s t ∧
        t.mpc = if (aluResult m.alu (aBus m s) (bBus m s)).getLsbD 15 then m.addr else s.mpc + 1)

/-- COND_Z: MPC takes ADDR exactly if the unshifted result is 0.

For every word with COND = 2 and every state in which the Step runs to its end (a read with a write has its own
statement), the next MPC is ADDR if the function result before the shift is 0, and (MPC + 1) mod 256 otherwise. The
word's COND bits 30:29 are 2. The increment is modulo 256 by the spec's decision D12 (log 9).

Derived: 42_sequencing.md R186, 42_sequencing.md R180. -/
def Obligations.CondZBranchesOnZero : Prop :=
  ∀ (m : MicroInstr) (s : State),
    (encode (.condZ m)).extractLsb' 29 2 = 2 ∧
    (cycleCompletes { m with cond := .zero } s = true → MicroInstr.halts m = false →
      ∃ t, exec (.condZ m) s = .next t ∧ StepFrame s t ∧
        t.mpc = if aluResult m.alu (aBus m s) (bBus m s) = 0 then m.addr else s.mpc + 1)

/-- COND_JUMP: MPC takes ADDR, and the ALU result may still be latched.

For every word with COND = 3 and every state in which the Step runs to its end (a read with a write has its own
statement), the next MPC is ADDR; the output is latched as MBR and ENC say; and if slot ADDR is Empty, the next Step
records Fatal. The word's COND bits 30:29 are 3. R187 says Fatal at the next Step; that this Step answers a next state
with the record FAULT is the spec's decision D28 and the model's form of it (log 6). The constant register kept under
policy discard rests on D11 (log 3).

Derived: 42_sequencing.md R187, 42_sequencing.md R180, 60_exceptions.md R260. -/
def Obligations.CondJumpTakesTheTarget : Prop :=
  ∀ (m : MicroInstr) (s : State),
    (encode (.condJump m)).extractLsb' 29 2 = 3 ∧
    (cycleCompletes { m with cond := .jump } s = true → MicroInstr.halts m = false →
      ∃ t, exec (.condJump m) s = .next t ∧ t.mpc = m.addr ∧
        Latched { m with cond := .jump } (cycleResult m s) (cycleOutput m s) s t ∧ StepFrame s t ∧
        (s.fault = none → ControlStore.slot s.cs m.addr = none → step t = .next { t with fault := some (.fatal m.addr) }))

/-- A breakpoint is checked at the already advanced MPC, so a run stops before the breakpointed instruction.

Where a Step runs to its end and is no read with a write, Desired becomes HALT if the slot at the new MPC is Defined
with its flag set, and is unchanged if that slot is Empty or its flag is clear; the flag of the instruction executed
plays no part. In a run loop, if the turn leaves the loop running at a breakpointed slot, the next turn is Halted with
CYCLES and everything but State as that turn left them. That an Empty slot has no effect is the spec's decision D23
(log 13), and the consequence for a run loop is marked as derived. The turn and the waiting field are the model's form
of Run() (log 19, log 29).

Derived: R183. -/
def Obligations.BreakpointHaltsAtTheAdvancedMpc : Prop :=
  (∀ (i : Instr) (s : State), cycleCompletes i.control s = true → MicroInstr.halts i.control = false →
    ∃ t, exec i s = .next t ∧
      (∀ slot, ControlStore.slot s.cs t.mpc = some slot → slot.bp = true → t.desired = .halt) ∧
      (∀ slot, ControlStore.slot s.cs t.mpc = some slot → slot.bp = false → t.desired = s.desired) ∧
      (ControlStore.slot s.cs t.mpc = none → t.desired = s.desired)) ∧
  ∀ (i : Instr) (s t : State), s.fault = none → s.awaitingSpace = false → s.desired = .run →
    (∃ slot, ControlStore.slot s.cs s.mpc = some slot ∧ nameOf slot.mi = i) →
    cycleCompletes i.control s = true → MicroInstr.halts i.control = false → exec i s = .next t → breakpointAt t = true →
    runTurn s = .running t ∧ runTurn t = .halted { t with runState := .halt }

/-- AMUX selects R[A] or MBR, B is always R[B], and MAR takes the whole B bus.

AMUX_REG feeds the ALU with R[A] and R[B] of the starting state, AMUX_MBR with the MBR the previous Step left and
R[B]; MAR_LATCH leaves R[B] in MAR, all 16 bits, whatever the ALU function; MAR_HOLD leaves MAR as it was. Each for
every word that selects the row, where the Step runs to its end (a read with a write has its own statement). The next-
MPC clause rests on the spec's decision D12 that the increment is modulo 256 (log 9) and on its inference that N is
bit 15 (log 12), and the constant register kept under policy discard on D11 (log 3).

Derived: 40_datapath.md R142, 42_sequencing.md R180. -/
def Obligations.OperandsAndAddressLatch : Prop :=
  (∀ (m : MicroInstr) (s : State), cycleCompletes { m with amux := .reg } s = true → MicroInstr.halts m = false →
    ∃ t, exec (.amuxReg m) s = .next t ∧ StepFrame s t ∧
      Latched m (aluResult m.alu (s.readReg m.a) (s.readReg m.b))
        (shiftOutput m.sh (aluResult m.alu (s.readReg m.a) (s.readReg m.b))) s t) ∧
  (∀ (m : MicroInstr) (s : State), cycleCompletes { m with amux := .mbr } s = true → MicroInstr.halts m = false →
    ∃ t, exec (.amuxMbr m) s = .next t ∧ StepFrame s t ∧
      Latched m (aluResult m.alu s.mbr (s.readReg m.b)) (shiftOutput m.sh (aluResult m.alu s.mbr (s.readReg m.b))) s t) ∧
  (∀ (m : MicroInstr) (s : State), cycleCompletes { m with mar := true } s = true → MicroInstr.halts m = false →
    ∃ t, exec (.marLatch m) s = .next t ∧ t.mar = s.readReg m.b ∧ StepFrame s t) ∧
  (∀ (m : MicroInstr) (s : State), cycleCompletes { m with mar := false } s = true → MicroInstr.halts m = false →
    ∃ t, exec (.marHold m) s = .next t ∧ t.mar = s.mar ∧ StepFrame s t)

/-- MBR_LATCH: MBR takes the output after the shift, a read cycle 2 overwrites it and a write cycle 1 snapshots it.

For every word with MBR = 1, where the Step runs to its end (a read with a write has its own statement): MBR holds the
output after the shift, unless the same Step is a read cycle 2, which leaves the word read; a write cycle 1 of the
same Step snapshots the new value; a write cycle 2 of the same Step to a plain address stores STG_B and not the new
value. With MBR = 0, MBR keeps its value unless a read cycle 2 loads it. Three of the corner cases are inferences the
spec marks as derived. STG_A as an optional address is its decision D7 and STG_B D8 (log 11); what a read of a device
address gives is D16 and D19 (log 3, log 15).

Derived: R143. -/
def Obligations.MbrLatchTakesTheOutput : Prop :=
  (∀ (m : MicroInstr) (s : State), cycleCompletes { m with mbr := true } s = true → MicroInstr.halts m = false →
    ∃ t, exec (.mbrLatch m) s = .next t ∧ StepFrame s t ∧
      ((m.rd = false ∨ s.stgA = none) → t.mbr = cycleOutput m s) ∧
      (∀ a, m.rd = true → s.stgA = some a → t.mbr = memReadValue a s) ∧
      (m.wr = true → m.rd = false → s.stgA = none → t.stgB = some (cycleOutput m s)) ∧
      (∀ a v, m.wr = true → m.rd = false → s.stgA = some a → s.stgB = some v → a ∉ s.params.deviceAddrs →
        Memory.wf s.mem = true → t.cell a = v)) ∧
  (∀ (m : MicroInstr) (s : State), cycleCompletes { m with mbr := false } s = true → MicroInstr.halts m = false →
    ∃ t, exec (.mbrHold m) s = .next t ∧ StepFrame s t ∧
      ((m.rd = false ∨ s.stgA = none) → t.mbr = s.mbr) ∧
      (∀ a, m.rd = true → s.stgA = some a → t.mbr = memReadValue a s))

/-- REG_WRITE: R[C] takes the output, a constant register follows CONST_WRITE_POLICY; REG_HOLD writes none.

For every word with ENC = 1, where the Step runs to its end (a read with a write has its own statement): if C names no
constant register, R[C] holds the output computed from the registers before the Step and every other register is as
before; if C names a constant register (policy discard), every register is as before and the rest of the Step
proceeds. Under policy fault a write to a constant register records ConstantWrite and has no other effect, where sub-
step 4 raised nothing. With ENC = 0 every register is as before, whatever C holds. CONST_WRITE_POLICY is the spec's
decision D11 (log 3), the record of the fault D28 (log 6), the counter that never wraps D13 (log 10), and that the old
operands are used an inference it marks.

Derived: R144, R145. -/
def Obligations.RegisterWriteFollowsEncAndC : Prop :=
  (∀ (m : MicroInstr) (s : State), cycleCompletes { m with enc := true } s = true → MicroInstr.halts m = false →
    ∃ t, exec (.regWrite m) s = .next t ∧ StepFrame s t ∧ t.cycles = s.cycles + 1 ∧
      (m.c ∉ s.params.regIndex.constants →
        t.readReg m.c = cycleOutput m s ∧ ∀ i, i ≠ m.c → t.readReg i = s.readReg i) ∧
      (m.c ∈ s.params.regIndex.constants → ∀ i, t.readReg i = s.readReg i) ∧
      (m.mbr = true → (m.rd = false ∨ s.stgA = none) → t.mbr = cycleOutput m s)) ∧
  (∀ (m : MicroInstr) (s : State), m.c ∈ s.params.regIndex.constants → s.params.constWritePolicy = .discard →
    MicroInstr.halts m = false → cycleCompletes { m with enc := false } s = true →
    ∃ t, exec (.regWrite m) s = .next t ∧ exec (.regHold m) s = .next t) ∧
  (∀ (m : MicroInstr) (s : State), m.c ∈ s.params.regIndex.constants → s.params.constWritePolicy = .fault →
    shiftFaults m s = false → s.fault = none →
    exec (.regWrite m) s = .next { s with fault := some .constantWrite }) ∧
  (∀ (m : MicroInstr) (s : State), cycleCompletes { m with enc := false } s = true → MicroInstr.halts m = false →
    ∃ t, exec (.regHold m) s = .next t ∧ StepFrame s t ∧ ∀ i, t.readReg i = s.readReg i)

/-- No instruction and no transition of the machine changes a constant register that holds its value.

Whenever exec or step answers a next state, every constant register reads as before, under either policy. If the
constant registers hold their values of R22, they hold them after every transition: a Step, a turn of the run loop, or
any operation of the host, Reset included, for parameters in their domains. The invariant is the source's; the
response of a Step is the spec's decision D11 (log 3), two of the five values are its parameters (D3, log 2), and
which transitions there are is the model's reading (log 19, log 22, log 30).

Derived: R23. -/
def Obligations.ConstantRegistersAreNeverWritten : Prop :=
  (∀ (i : Instr) (s t : State), exec i s = .next t → ∀ c ∈ s.params.regIndex.constants, t.readReg c = s.readReg c) ∧
  (∀ s t : State, step s = .next t → ∀ c ∈ s.params.regIndex.constants, t.readReg c = s.readReg c) ∧
  ∀ (e : Event) (s : State), s.params.wf = true → constantsHold s = true → constantsHold (afterEvent e s) = true

/-- MEM_NONE: a Step without a request leaves staging, the transmitter and every cell the poll does not fill.

For every word without a request, where the Step runs to its end: STG_A, STG_B, TXS and TXQ are as before; if the poll
takes no byte, RXS, RXQ and every cell are as before; if it takes one, RXQ loses its head and only the receiver data
cell and RXS change. The next-MPC clause rests on the spec's decision D12 that the increment is modulo 256 (log 9) and
on its inference that N is bit 15 (log 12), the constant register kept under policy discard on D11 (log 3), and the
counter that never wraps on D13 (log 10). What the poll takes is D20 and D29 (log 15), the status values D6 (log 15),
and that staging persists an inference the spec marks in R200.

Derived: 40_datapath.md R140, 43_memory_requests.md R200, 43_memory_requests.md R210, 42_sequencing.md R180. -/
def Obligations.RequestlessStepLeavesTheBusAlone : Prop :=
  ∀ (m : MicroInstr) (s : State), cycleCompletes { m with rd := false, wr := false } s = true →
    ∃ t, exec (.memNone m) s = .next t ∧ Latched { m with rd := false, wr := false } (cycleResult m s) (cycleOutput m s) s t ∧
      StepFrame s t ∧ t.cycles = s.cycles + 1 ∧
      t.stgA = s.stgA ∧ t.stgB = s.stgB ∧ t.txs = s.txs ∧ t.txq = s.txq ∧
      t.rxs = (if pollTakes s then readyVal s.params else s.rxs) ∧
      t.rxq = (if pollTakes s then s.rxq.tail else s.rxq) ∧
      ∀ a, a ≠ s.params.rxDataAddr ∨ pollTakes s = false → t.cell a = s.cell a

/-- MEM_READ: cycle 1 captures MAR[11:0] as latched by the same Step, cycle 2 loads MBR and clears STG_A.

For every word with RD = 1 and WR = 0, where the Step runs to its end. With STG_A = None: STG_A takes the low 12 bits
of MAR as sub-step 3 of the same Step leaves it (R[B] if MAR = 1), MBR changes only by the MBR field, and no cell is
accessed. With STG_A = Some a: MBR takes MemRead(a), STG_A becomes None, whatever MAR holds. STG_B is unchanged in
both. R202 (MAR as the same Step latched it) and R203 (MAR without effect at cycle 2) are inferences the spec marks as
derived; that a read leaves STG_B is its decision D8, STG_A as an optional address D7 (log 11), and what the poll
takes D20 and D29 (log 15).

Derived: 43_memory_requests.md R201, 43_memory_requests.md R202, 43_memory_requests.md R203. -/
def Obligations.ReadRequestTakesTwoCycles : Prop :=
  ∀ (m : MicroInstr) (s : State), cycleCompletes { m with rd := true, wr := false } s = true →
    (encode (.memRead m)).extractLsb' 21 2 = 2 ∧
    (s.stgA = none →
      ∃ t, exec (.memRead m) s = .next t ∧
        t.stgA = some ((if m.mar then s.readReg m.b else s.mar).extractLsb' 0 12) ∧ t.stgB = s.stgB ∧
        t.mbr = (if m.mbr then cycleOutput m s else s.mbr) ∧
        StepFrame s t ∧ t.txs = s.txs ∧ t.txq = s.txq ∧
        t.rxs = (if pollTakes s then readyVal s.params else s.rxs) ∧
        ∀ a, a ≠ s.params.rxDataAddr ∨ pollTakes s = false → t.cell a = s.cell a) ∧
    (∀ a, s.stgA = some a →
      ∃ t, exec (.memRead m) s = .next t ∧ t.mbr = memReadValue a s ∧ t.stgA = none ∧ t.stgB = s.stgB ∧
        StepFrame s t ∧ t.txs = s.txs ∧ t.txq = s.txq)

/-- MemRead: a plain or data address gives its cell, the status addresses the live status, and reading receiver data clears READY.

For parameters in their domains and a read cycle 2 at any address: MBR takes the cell at a plain address, at the
transmitter data and at the receiver data address, RXS at the receiver status address, and TXS or the cell at the
transmitter status address by TX_STATUS_READ. A read of receiver data with both status bits set clears READY (RXQ
empty), and with a byte waiting the poll of the same Step loads it; otherwise the read has no side effect: RXS changes
only if the poll takes a byte. No cell but the receiver data cell changes. The transmitter status read is the spec's
decision D16, the transmitter data read D19 (log 3, log 15), the status values are D6 (log 15), and what the poll
takes D20 and D29 (log 15).

Derived: R70. -/
def Obligations.ReadCycleTwoOfEveryAddress : Prop :=
  ∀ (m : MicroInstr) (s : State) (a : Addr), s.params.wf = true → s.stgA = some a →
    cycleCompletes { m with rd := true, wr := false } s = true →
    ∃ t, exec (.memRead m) s = .next t ∧
      (a = s.params.rxDataAddr → t.mbr = s.cell a) ∧
      (a = s.params.rxStatusAddr → t.mbr = s.rxs) ∧
      (a = s.params.txStatusAddr →
        t.mbr = (match s.params.txStatusRead with | .live => s.txs | .backing => s.cell a)) ∧
      (a = s.params.txDataAddr ∨ a ∉ s.params.deviceAddrs → t.mbr = s.cell a) ∧
      (a = s.params.rxDataAddr → s.rxEnabled = true → s.rxReady = true → s.rxq = [] →
        t.rxs = s.rxs &&& ~~~(1#16 <<< s.params.readyBit.val) ∧ ∀ b, t.cell b = s.cell b) ∧
      (∀ byte rest, a = s.params.rxDataAddr → s.rxEnabled = true → s.rxReady = true → s.rxq = byte :: rest →
        t.rxs = readyVal s.params ∧ t.rxq = rest ∧
        (Memory.wf s.mem = true → t.cell s.params.rxDataAddr = byte.setWidth 16)) ∧
      ((a ≠ s.params.rxDataAddr ∨ s.rxEnabled = false ∨ s.rxReady = false) →
        t.rxs = if pollTakes s then readyVal s.params else s.rxs) ∧
      (∀ b, b ≠ s.params.rxDataAddr → t.cell b = s.cell b) ∧
      t.txs = s.txs ∧ t.txq = s.txq

/-- MEM_WRITE: cycle 1 captures MAR[11:0] and snapshots MBR, cycle 2 stores the snapshot and clears STG_A only.

For every word with RD = 0 and WR = 1. Where the Step runs to its end with STG_A = None: STG_A takes the low 12 bits
of MAR and STG_B the MBR, both as the same Step latched them, and no cell is accessed. With STG_A = Some a and STG_B =
Some v: a plain cell a takes v whatever MBR holds or latches, STG_A becomes None and STG_B keeps v. With STG_B = None
the Step records StaleWriteStaging and changes nothing else, where sub-steps 4 and 6 raised nothing. With the store
blocked by a full TXQ the state is as before. StaleWriteStaging and the life of STG_B are the spec's decision D8,
STG_A as an optional address D7 (log 11), the record of the fault D28 (log 6), the Hold D21, and that it answers the
same state the model's choice (log 5).

Derived: R204, R205. -/
def Obligations.WriteRequestTakesTwoCycles : Prop :=
  ∀ (m : MicroInstr) (s : State),
    (encode (.memWrite m)).extractLsb' 21 2 = 1 ∧
    (cycleCompletes { m with rd := false, wr := true } s = true → s.stgA = none →
      ∃ t, exec (.memWrite m) s = .next t ∧
        t.stgA = some ((if m.mar then s.readReg m.b else s.mar).extractLsb' 0 12) ∧
        t.stgB = some (if m.mbr then cycleOutput m s else s.mbr) ∧
        StepFrame s t ∧ t.txs = s.txs ∧ t.txq = s.txq ∧
        ∀ a, a ≠ s.params.rxDataAddr ∨ pollTakes s = false → t.cell a = s.cell a) ∧
    (∀ a v, cycleCompletes { m with rd := false, wr := true } s = true → s.stgA = some a → s.stgB = some v →
      ∃ t, exec (.memWrite m) s = .next t ∧ t.stgA = none ∧ t.stgB = some v ∧ StepFrame s t ∧
        (a ∉ s.params.deviceAddrs → Memory.wf s.mem = true → t.cell a = v) ∧
        ∀ b, b ≠ a → b ≠ s.params.rxDataAddr → t.cell b = s.cell b) ∧
    (shiftFaults m s = false → constantWriteFaults m s = false → s.fault = none → s.stgA ≠ none → s.stgB = none →
      exec (.memWrite m) s = .next { s with fault := some .staleWriteStaging }) ∧
    (∀ a, shiftFaults m s = false → constantWriteFaults m s = false → s.stgA = some a → s.stgB ≠ none →
      s.transmitBlocked a = true → exec (.memWrite m) s = .next s)

/-- MemWrite: what a write cycle 2 does at a plain address and at each device address.

For parameters in their domains, a canonical memory and a write cycle 2 of v at a that is not held. Plain: the cell
takes v. Receiver data: the cell takes v, unless the poll fills it. Receiver status: the enable code sets RXS to
enabled, pending (or ready, if the poll takes a byte at once), another value leaves RXS, and no cell changes.
Transmitter status: the enable code sets TXS to ready, another value leaves it, and the cell takes v exactly under
TX_STATUS_READ = backing. Transmitter data: the cell takes the low byte zero-extended, and an enabled transmitter
sends it to TXQ and is ready. Everywhere else no cell changes but the receiver data cell the poll fills. A store by an
enabled transmitter onto a full TXQ is held. The branches on other values, on receiver data, on the transmitter status
cell and on a full queue are the spec's decisions D16, D17, D18 and D21 (log 3, log 5, log 15), the status values D6
(log 15), and what the poll takes D20 and D29 (log 15).

Derived: R71. -/
def Obligations.WriteCycleTwoOfEveryAddress : Prop :=
  (∀ (m : MicroInstr) (s : State) (a : Addr) (v : Word), s.params.wf = true → Memory.wf s.mem = true →
    s.stgA = some a → s.stgB = some v → cycleCompletes { m with rd := false, wr := true } s = true →
    ∃ t, exec (.memWrite m) s = .next t ∧
      (a ∉ s.params.deviceAddrs → t.cell a = v ∧ t.txs = s.txs ∧ t.txq = s.txq) ∧
      (a = s.params.rxDataAddr → pollTakes s = false → t.cell a = v ∧ t.rxs = s.rxs ∧ t.txs = s.txs ∧ t.txq = s.txq) ∧
      (a = s.params.rxStatusAddr → v = s.params.enableCode → s.rxq = [] → t.rxs = rxPending s.params) ∧
      (a = s.params.rxStatusAddr → v = s.params.enableCode → s.rxq ≠ [] →
        t.rxs = readyVal s.params ∧ t.rxq = s.rxq.tail) ∧
      (a = s.params.rxStatusAddr → v ≠ s.params.enableCode → pollTakes s = false → t.rxs = s.rxs) ∧
      (a = s.params.rxStatusAddr → t.cell a = s.cell a ∧ t.txs = s.txs ∧ t.txq = s.txq) ∧
      (a = s.params.txStatusAddr →
        t.txs = (if v = s.params.enableCode then readyVal s.params else s.txs) ∧ t.txq = s.txq ∧
        t.cell a = (match s.params.txStatusRead with | .live => s.cell a | .backing => v)) ∧
      (a = s.params.txDataAddr →
        t.cell a = (v.extractLsb' 0 8).setWidth 16 ∧
        (s.txEnabled = true → t.txq = s.txq ++ [v.extractLsb' 0 8] ∧ t.txs = readyVal s.params) ∧
        (s.txEnabled = false → t.txq = s.txq ∧ t.txs = s.txs)) ∧
      (a ≠ s.params.rxStatusAddr → t.rxs = if pollTakes s then readyVal s.params else s.rxs) ∧
      (∀ b, b ≠ a → (b ≠ s.params.rxDataAddr ∨ (pollTakes s = false ∧ a ≠ s.params.rxStatusAddr)) → t.cell b = s.cell b)) ∧
  (∀ (m : MicroInstr) (s : State), s.params.wf = true → shiftFaults m s = false → constantWriteFaults m s = false →
    s.stgA = some s.params.txDataAddr → s.stgB ≠ none → s.txEnabled = true → s.txq.length = s.params.txqCap →
    exec (.memWrite m) s = .next s)

/-- MEM_RDWR_HALT: Desired becomes HALT with no memory access, and RDWR_HALT_POINT says what else takes effect.

For every word with RD = WR = 1 in whose Step no sub-step raises a fault. after_sequencing: the latches and the MPC of
sub-steps 2 to 7 take effect, Desired is HALT, and CYCLES, RXS and RXQ are unchanged. discard_all: only Desired
changes. complete: as after_sequencing, and CYCLES is one more and the poll runs. Under all three STG_A, STG_B, TXS
and TXQ are unchanged, and so is every cell, but for the receiver data cell when the poll of complete takes a byte. A
run loop then stops with State = HALT. The word's bits 22:21 are 3. What else takes effect is the spec's decision D9
(log 3, log 21). Under after_sequencing and complete the next-MPC clause rests on D12, the increment modulo 256 (log
9), and on the inference that N is bit 15 (log 12), and the constant register kept under policy discard on D11 (log
3). The counter that never wraps is D13 (log 10), what the poll takes D20 and D29 (log 15), and the turn and the
waiting field are the model's form of Run() (log 19, log 29).

Derived: 43_memory_requests.md R207, 42_sequencing.md R180, 44_host_interface.md R238. -/
def Obligations.ReadWithWriteHalts : Prop :=
  ∀ (m : MicroInstr) (s : State), cycleCompletes { m with rd := true, wr := true } s = true →
    (encode (.memRdWrHalt m)).extractLsb' 21 2 = 3 ∧
    ∃ t, exec (.memRdWrHalt m) s = .next t ∧ t.desired = .halt ∧ StepFrame s t ∧
      t.stgA = s.stgA ∧ t.stgB = s.stgB ∧ t.txs = s.txs ∧ t.txq = s.txq ∧
      (s.awaitingSpace = false → runTurn t = .halted { t with runState := .halt }) ∧
      (s.params.rdwrHaltPoint = .afterSequencing →
        Latched { m with rd := true, wr := true } (cycleResult m s) (cycleOutput m s) s t ∧
        t.cycles = s.cycles ∧ t.rxs = s.rxs ∧ t.rxq = s.rxq ∧ t.mem = s.mem) ∧
      (s.params.rdwrHaltPoint = .discardAll → t = { s with desired := .halt }) ∧
      (s.params.rdwrHaltPoint = .complete →
        Latched { m with rd := true, wr := true } (cycleResult m s) (cycleOutput m s) s t ∧
        t.cycles = s.cycles + 1 ∧ t.rxs = (if pollTakes s then readyVal s.params else s.rxs) ∧
        t.rxq = (if pollTakes s then s.rxq.tail else s.rxq) ∧
        ∀ a, a ≠ s.params.rxDataAddr ∨ pollTakes s = false → t.cell a = s.cell a)

/-- The receive poll takes at most one byte, only when the receiver is enabled and not ready.

The poll takes a byte exactly when RXS has the enable bit set and the ready bit clear and RXQ is not empty: RXQ loses
its head, the receiver data cell holds it zero-extended, RXS is data ready, and nothing else changes. Otherwise the
poll changes nothing. It is the last sub-step of a Step: a NOP in such a state leaves the same RXS, RXQ and cell. The
zero extension and the one byte are the spec's decisions D20 and D29 (log 15), the status values D6 (log 15).

Derived: R210. -/
def Obligations.ReceivePollTakesOneByte : Prop :=
  (∀ (s : State) (byte : Byte) (rest : List Byte), s.rxs.getLsbD s.params.enableBit.val = true →
    s.rxs.getLsbD s.params.readyBit.val = false → s.rxq = byte :: rest → Memory.wf s.mem = true →
    (receivePoll s).rxq = rest ∧ (receivePoll s).rxs = readyVal s.params ∧
    (receivePoll s).cell s.params.rxDataAddr = byte.setWidth 16 ∧
    { receivePoll s with rxq := s.rxq, rxs := s.rxs, mem := s.mem } = s ∧
    (∀ b, b ≠ s.params.rxDataAddr → (receivePoll s).cell b = s.cell b) ∧
    ∃ t, exec .nop s = .next t ∧ t.rxq = rest ∧ t.rxs = readyVal s.params ∧
      t.cell s.params.rxDataAddr = byte.setWidth 16) ∧
  (∀ s : State, s.rxs.getLsbD s.params.enableBit.val = false ∨ s.rxs.getLsbD s.params.readyBit.val = true ∨ s.rxq = [] →
    receivePoll s = s)

/-- Two consecutive read Steps load the word at the address captured by the first.

From STG_A = None, a read Step and then a read Step, both run to their ends: if the address captured by the first is
no device address, MBR holds the word memory held there before the first, and STG_A is None again, whatever the second
Step does with MAR and MBR. R68 is an inference the spec marks as derived; STG_A as an optional address is its
decision D7 (log 11).

Derived: 43_memory_requests.md R201, 70_reset_and_hazards.md R301, 20_memory.md R68. -/
def Obligations.TwoReadStepsLoadTheWord : Prop :=
  ∀ (m n : MicroInstr) (s t : State), s.stgA = none →
    cycleCompletes { m with rd := true, wr := false } s = true → exec (.memRead m) s = .next t →
    cycleCompletes { n with rd := true, wr := false } t = true →
    let a := (if m.mar then s.readReg m.b else s.mar).extractLsb' 0 12
    a ∉ s.params.deviceAddrs →
    ∃ u, exec (.memRead n) t = .next u ∧ u.mbr = s.cell a ∧ u.stgA = none

/-- Two consecutive write Steps store the MBR of the first, even if MBR changes in the second.

From STG_A = None with a canonical memory, a write Step and then a write Step, both run to their ends: if the address
captured by the first is no device address, that cell holds MBR as the first Step left it, and STG_A is None again,
whatever the second Step does with MAR and MBR. R68 is an inference the spec marks as derived; STG_A as an optional
address is its decision D7 and STG_B D8 (log 11).

Derived: 43_memory_requests.md R204, 70_reset_and_hazards.md R301, 20_memory.md R68. -/
def Obligations.TwoWriteStepsStoreTheSnapshot : Prop :=
  ∀ (m n : MicroInstr) (s t : State), s.stgA = none → Memory.wf s.mem = true →
    cycleCompletes { m with rd := false, wr := true } s = true → exec (.memWrite m) s = .next t →
    cycleCompletes { n with rd := false, wr := true } t = true →
    let a := (if m.mar then s.readReg m.b else s.mar).extractLsb' 0 12
    a ∉ s.params.deviceAddrs →
    ∃ u, exec (.memWrite n) t = .next u ∧ u.cell a = t.mbr ∧ u.stgA = none

/-- A read after a write cycle 1 loses the write; a write after a read cycle 1 stores the old snapshot.

From STG_A = None: a write Step and then a read Step, both run to their ends at a captured plain address, load MBR
with the word memory held there before and store nothing, and STG_A is None again. A read Step and then a write Step
store the STG_B from before at the address the read captured; with STG_B = None the second Step records
StaleWriteStaging (where sub-steps 4 and 6 raised nothing). R206 is an inference the spec marks as derived; that the
second Step stores the STG_B from before, and the fault StaleWriteStaging, are the spec's decision D8, STG_A as an
optional address D7 (log 11), and the record of the fault D28 (log 6).

Derived: 43_memory_requests.md R206, 93_implementation_defined.md U3. -/
def Obligations.MixedRequestsShareTheStaging : Prop :=
  (∀ (m n : MicroInstr) (s t : State), s.stgA = none →
    cycleCompletes { m with rd := false, wr := true } s = true → exec (.memWrite m) s = .next t →
    cycleCompletes { n with rd := true, wr := false } t = true →
    let a := (if m.mar then s.readReg m.b else s.mar).extractLsb' 0 12
    a ∉ s.params.deviceAddrs →
    ∃ u, exec (.memRead n) t = .next u ∧ u.mbr = s.cell a ∧ u.cell a = s.cell a ∧ u.stgA = none) ∧
  (∀ (m n : MicroInstr) (s t : State) (v : Word), s.stgA = none → s.stgB = some v → Memory.wf s.mem = true →
    cycleCompletes { m with rd := true, wr := false } s = true → exec (.memRead m) s = .next t →
    cycleCompletes { n with rd := false, wr := true } t = true →
    let a := (if m.mar then s.readReg m.b else s.mar).extractLsb' 0 12
    a ∉ s.params.deviceAddrs →
    ∃ u, exec (.memWrite n) t = .next u ∧ u.cell a = v ∧ u.stgA = none) ∧
  (∀ (m n : MicroInstr) (s t : State), s.stgA = none → s.stgB = none → s.fault = none →
    cycleCompletes { m with rd := true, wr := false } s = true → exec (.memRead m) s = .next t →
    shiftFaults n t = false → constantWriteFaults n t = false →
    exec (.memWrite n) t = .next { t with fault := some .staleWriteStaging })

/-- A held Step leaves the state as it is, a run loop waits with it, and a pop from TXQ lifts the Hold.

In a state without a recorded fault whose next Step is held: step answers the same state; a turn of a loop that wants
to run waits, and goes on waiting while TXQ is full; and after the host pops a byte (capacity at least 1) the same
Step runs to its end, also when the waiting loop retries it after Desired became HALT. The Hold is the spec's decision
D21; that it answers the same state, and the waiting field, are the model's choice (log 5, log 19), so is the turn
that tests Desired and steps at once (log 29). The counter that never wraps is D13 (log 10).

Derived: 40_datapath.md R141, 20_memory.md R71, 44_host_interface.md R236, 44_host_interface.md R241. -/
def Obligations.HeldStepRunsOnceTheHostPops : Prop :=
  ∀ (s : State) (slot : Slot), s.fault = none → ControlStore.slot s.cs s.mpc = some slot →
    shiftFaults slot.mi s = false → constantWriteFaults slot.mi s = false → writeIsHeld slot.mi s = true →
    1 ≤ s.params.txqCap →
    step s = .next s ∧
    (s.desired = .run → s.awaitingSpace = false → runTurn s = .running { s with awaitingSpace := true }) ∧
    (s.awaitingSpace = true → runTurn s = .running s) ∧
    cycleCompletes slot.mi (txPop s).1 = true ∧
    ∃ t, step (txPop s).1 = .next t ∧ t.cycles = s.cycles + 1 ∧ t.stgA = none ∧
      (s.awaitingSpace = true → runTurn (setDesired .halt (txPop s).1) = .running { setDesired .halt t with awaitingSpace := false })

/-- What no instruction changes unless its fields say so.

Whenever exec answers a next state, whether the Step ran to its end, recorded a fault or was held: the parameters, the
control store with its flags, State and the run loop's wait are as before; every register but R[C] with ENC = 1 is as
before; MAR is as before without MAR = 1; MBR without MBR = 1 and a read request; STG_A without exactly one request;
STG_B, TXS and TXQ without a write request; RXQ is as before or has lost its head. That a read leaves STG_B as before
is the spec's decision D8 (log 11); that a held Step answers a next state at all is the model's choice (log 5), and
that a raised fault does, with the record FAULT, D28 (log 6); the run loop's wait is the model's field (log 19), and a
poll takes one byte by D29 (log 15).

Derived: 40_datapath.md R140, 40_datapath.md R141, 40_datapath.md R144, 10_state.md R26, 10_state.md R27, 10_state.md R28, 10_state.md R29, 10_state.md R31, 44_host_interface.md R239. -/
def Obligations.FrameOfEveryInstruction : Prop :=
  ∀ (i : Instr) (s t : State), exec i s = .next t →
    t.params = s.params ∧ t.cs = s.cs ∧ t.runState = s.runState ∧ t.awaitingSpace = s.awaitingSpace ∧
    (∀ r, (i.control.enc = true → r ≠ i.control.c) → t.readReg r = s.readReg r) ∧
    (i.control.mar = false → t.mar = s.mar) ∧
    (i.control.mbr = false → MicroInstr.reads i.control = false → t.mbr = s.mbr) ∧
    (i.control.rd = i.control.wr → t.stgA = s.stgA) ∧
    (MicroInstr.writes i.control = false → t.stgB = s.stgB ∧ t.txs = s.txs ∧ t.txq = s.txq) ∧
    (t.rxq = s.rxq ∨ ∃ byte, s.rxq = byte :: t.rxq)

/-- No instruction changes a cell but the one a write cycle 2 goes to and the receiver data cell.

Whenever exec answers a next state: every cell but the receiver data cell reads as before, unless the word requests a
write alone and STG_A holds that address; the receiver data cell too reads as before, unless such a write goes to it
or the poll took a byte (RXQ changed). That a held Step and a raised fault answer a next state is the model's choice
(log 5, log 6); that the address is the one of cycle 1 is an inference the spec marks in R203.

Derived: 20_memory.md R69, 43_memory_requests.md R203, 43_memory_requests.md R204, 43_memory_requests.md R210. -/
def Obligations.MemoryFrameOfEveryInstruction : Prop :=
  ∀ (i : Instr) (s t : State) (b : Addr), exec i s = .next t →
    (MicroInstr.writes i.control = true → s.stgA ≠ some b) →
    (b ≠ s.params.rxDataAddr ∨ t.rxq = s.rxq) → t.cell b = s.cell b

/-- Only a breakpoint or a read with a write changes Desired in a Step, and only to HALT.

Whenever step answers a next state: State is as before, and Desired is as before, unless it became HALT because the
slot at the new MPC has its breakpoint flag set or because the word in slot MPC requests a read and a write together.
That an Empty slot has no flag is the spec's decision D23 (log 13), R211 is marked as derived, and that a held Step
and a raised fault answer a next state is the model's choice (log 5, log 6).

Derived: 10_state.md R36, 43_memory_requests.md R211, 60_exceptions.md R261, 60_exceptions.md R262. -/
def Obligations.DesiredChangesOnlyByBreakpointOrHalt : Prop :=
  ∀ s t : State, step s = .next t →
    t.runState = s.runState ∧
    (t.desired = s.desired ∨
      t.desired = .halt ∧
        (breakpointAt t = true ∨
          ∃ slot, ControlStore.slot s.cs s.mpc = some slot ∧ slot.mi.rd = true ∧ slot.mi.wr = true))

/-- No Step and no run loop turn changes the control store: only loading, zeroing and toggling do.

Over any sequence of transitions that holds no LoadControlStore, ZeroControlStore or ToggleBreakpoint, the control
store with its flags and the parameters are as before. R33 and R77 are inferences the spec marks as derived; that the
parameters stand in State, and which transitions there are, is the model's choice (log 1, log 19, log 22, log 30).

Derived: 10_state.md R31, 10_state.md R33, 20_memory.md R77, 44_host_interface.md R237. -/
def Obligations.OnlyTheHostChangesTheControlStore : Prop :=
  ∀ (es : List Event) (s : State),
    (∀ e ∈ es, (∀ ws, e ≠ .host (.loadControlStore ws)) ∧ e ≠ .host .zeroControlStore ∧
      ∀ m, e ≠ .host (.toggleBreakpoint m)) →
    (afterEvents es s).cs = s.cs ∧ (afterEvents es s).params = s.params

/-- Reset: the value of every register and latch, by the reset list and RESET_UNLISTED.

For parameters in their domains, after Reset: Desired is HALT; PC is 0, SP is SP_RESET, the five constants hold their
values, every scratch register (an index no role has) is 0; STG_A and STG_B are None; MBR, MPC and CYCLES are 0; FAULT
is None; and AC, IR, TIR, MAR, RXS and TXS are 0 under RESET_UNLISTED = zero and as before under preserve. What Reset
does to the unlisted state is the spec's decision D14 (log 14), the fault record D28 (log 6), the staging sentinel D7
and D8 (log 11), the masks and SP_RESET are its parameters D3 and D4 (log 2), and that the indices without a role are
the scratch registers is log 24.

Derived: R290, R292, R294. -/
def Obligations.ResetSetsTheListedState : Prop :=
  ∀ s : State, s.params.wf = true →
    let t := resetEngine s
    let r := s.params.regIndex
    t.desired = .halt ∧ t.readReg r.pc = 0 ∧ t.readReg r.sp = s.params.spReset ∧
    t.readReg r.zero = 0x0000 ∧ t.readReg r.one = 0x0001 ∧ t.readReg r.mone = 0xFFFF ∧
    t.readReg r.amask = s.params.amaskValue ∧ t.readReg r.smask = s.params.smaskValue ∧
    (∀ i, i ∉ r.roles → t.readReg i = 0) ∧
    t.stgA = none ∧ t.stgB = none ∧ t.mbr = 0 ∧ t.mpc = 0 ∧ t.cycles = 0 ∧ t.fault = none ∧
    (s.params.resetUnlisted = .zero →
      t.readReg r.ac = 0 ∧ t.readReg r.ir = 0 ∧ t.readReg r.tir = 0 ∧ t.mar = 0 ∧ t.rxs = 0 ∧ t.txs = 0) ∧
    (s.params.resetUnlisted = .preserve →
      t.readReg r.ac = s.readReg r.ac ∧ t.readReg r.ir = s.readReg r.ir ∧ t.readReg r.tir = s.readReg r.tir ∧
      t.mar = s.mar ∧ t.rxs = s.rxs ∧ t.txs = s.txs)

/-- Reset is idempotent and changes neither memory, control store, flags, queues nor State.

From every state: Reset leaves State, memory, the control store with its flags, RXQ and TXQ as they were, and a second
Reset gives the same state. If a run loop is active and does not wait for space, its next turn after the Reset is
Halted with State = HALT. That the queues are kept (R293), the run loop's halt (R291) and idempotence (R296) are
inferences the spec marks; the waiting field is the model's (log 19), so is what a waiting loop does after a Reset,
which this statement leaves out (log 31), and so is the turn that tests Desired and steps at once (log 29); the
unlisted state follows RESET_UNLISTED (log 14).

Derived: 70_reset_and_hazards.md R291, 70_reset_and_hazards.md R293, 70_reset_and_hazards.md R296. -/
def Obligations.ResetLeavesTheRestAlone : Prop :=
  ∀ s : State,
    (resetEngine s).runState = s.runState ∧ (resetEngine s).mem = s.mem ∧ (resetEngine s).cs = s.cs ∧
    (resetEngine s).rxq = s.rxq ∧ (resetEngine s).txq = s.txq ∧
    resetEngine (resetEngine s) = resetEngine s ∧
    (s.awaitingSpace = false → runTurn (resetEngine s) = .halted { resetEngine s with runState := .halt })

/-- At creation every slot is Empty, every cell 0, the queues empty, State is HALT, and the rest is as after a Reset.

For every choice of the parameters, the creation state has every slot Empty, every cell 0, empty queues and State =
HALT, and a Reset of it (under RESET_UNLISTED = zero, and here under preserve as well) changes nothing; its first
fetch is of slot 0. The model's reset state is the creation state of the reference parameters (log 2, 3, 4, 16). The
creation state is the spec's decision D15, and that reset is the creation state the model's reading (log 14, log 16).

Derived: 70_reset_and_hazards.md R297, 70_reset_and_hazards.md R298. -/
def Obligations.CreationStateIsAsAfterReset : Prop :=
  (∀ p : Params,
    (∀ m, ControlStore.slot (State.creation p).cs m = none) ∧ (∀ a, (State.creation p).cell a = 0) ∧
    (State.creation p).rxq = [] ∧ (State.creation p).txq = [] ∧ (State.creation p).runState = .halt ∧
    (State.creation p).mpc = 0 ∧ resetEngine (State.creation p) = State.creation p) ∧
  State.reset = State.creation referenceParams

/-- LoadControlStore installs each word decoded at its position, all or nothing.

A load of more than 256 words is a load error (expected 256, actual n) with no state change. A load of at most 256
words leaves slot i, for each i below n, Defined with the decoding of word i and its flag false, every other slot as
before, and everything but the control store as before. The lengths and the untouched rest are the spec's decision D24
(log 18).

Derived: R230. -/
def Obligations.LoadControlStoreInstallsDecodedWords : Prop :=
  ∀ (ws : List ControlWord) (s : State),
    (256 < ws.length → loadControlStore ws s = (s, .loadError 256 ws.length)) ∧
    (ws.length ≤ 256 →
      (loadControlStore ws s).2 = .done ∧
      (∀ m : MicroAddr, ∀ w, ws[m.toNat]? = some w →
        ControlStore.slot (loadControlStore ws s).1.cs m = some { mi := decodeFields w, bp := false }) ∧
      (∀ m : MicroAddr, ws.length ≤ m.toNat →
        ControlStore.slot (loadControlStore ws s).1.cs m = ControlStore.slot s.cs m) ∧
      { (loadControlStore ws s).1 with cs := s.cs } = s)

/-- LoadMemory installs each word at its position as a plain store, all or nothing.

A load of more than 4096 words is a load error (expected 4096, actual n) with no state change. A load of at most 4096
words into a canonical memory leaves cell i, for each i below n, holding word i (the device cells included), every
other cell as before, and everything but memory, RXS and TXS among it, as before. The lengths and the untouched rest
are the spec's decision D24, the plain access to device cells D31 (log 18).

Derived: R231, 20_memory.md R72. -/
def Obligations.LoadMemoryInstallsPlainCells : Prop :=
  ∀ (ws : List Word) (s : State),
    (4096 < ws.length → loadMemory ws s = (s, .loadError 4096 ws.length)) ∧
    (ws.length ≤ 4096 → Memory.wf s.mem = true →
      (loadMemory ws s).2 = .done ∧
      (∀ a : Addr, ∀ w, ws[a.toNat]? = some w → (loadMemory ws s).1.cell a = w) ∧
      (∀ a : Addr, ws.length ≤ a.toNat → (loadMemory ws s).1.cell a = s.cell a) ∧
      { (loadMemory ws s).1 with mem := s.mem } = s)

/-- ZeroMemory leaves every cell 0, ZeroControlStore every slot Empty, and nothing else changes.

ZeroMemory leaves every cell 0, the device cells included, and everything else as before. ZeroControlStore leaves
every slot Empty and everything else as before, so that a Step without a recorded fault records Fatal(MPC). That
zeroing touches no device state is the spec's decision D31, that zeroed slots are Empty D25 (log 18), and the record
FAULT of the Step D28 (log 6).

Derived: 44_host_interface.md R232, 44_host_interface.md R233. -/
def Obligations.ZeroingByTheHost : Prop :=
  (∀ s : State, (∀ a, (zeroMemory s).cell a = 0) ∧ { zeroMemory s with mem := s.mem } = s) ∧
  ∀ s : State, (∀ m, ControlStore.slot (zeroControlStore s).cs m = none) ∧ { zeroControlStore s with cs := s.cs } = s ∧
    (s.fault = none → step (zeroControlStore s) = .next { zeroControlStore s with fault := some (.fatal s.mpc) })

/-- ToggleBreakpoint flips the flag of one Defined slot; SetDesiredState writes Desired only.

ToggleBreakpoint of a Defined slot flips its flag and changes no other slot and no other state, so that twice is the
flag from before; of an Empty slot it does nothing. SetDesiredState writes Desired and nothing else, State among it.

Stated: R237, R235. -/
def Obligations.ToggleFlipsOneFlag : Prop :=
  (∀ (s : State) (m : MicroAddr),
    (∀ slot, ControlStore.slot s.cs m = some slot →
      ControlStore.slot (toggleBreakpoint m s).cs m = some { slot with bp := !slot.bp } ∧
      ControlStore.slot (toggleBreakpoint m (toggleBreakpoint m s)).cs m = some slot) ∧
    (∀ n, n ≠ m → ControlStore.slot (toggleBreakpoint m s).cs n = ControlStore.slot s.cs n) ∧
    (ControlStore.slot s.cs m = none → toggleBreakpoint m s = s) ∧
    { toggleBreakpoint m s with cs := s.cs } = s) ∧
  ∀ (s : State) (v : RunState), (setDesired v s).desired = v ∧ { setDesired v s with desired := s.desired } = s

/-- One turn of the run loop: it leaves with HALT, calls Step, aborts on a fault, and waits with a held Step.

Run() sets State = RUN on entry exactly if Desired = RUN and changes nothing else. A turn of a loop that does not
wait: with Desired = HALT it is Halted with State = HALT; with Desired = RUN and a Step that is held it waits;
otherwise it goes on with the state Step answers, unless that state records a fault f, or f was recorded already: then
it is Aborted(f) with State = HALT. A waiting loop stays while TXQ is full, and otherwise retries its Step whatever
Desired holds. When Run() sets State is the spec's decision D27, the abort with its record D28 (log 6); the waiting
field is the model's reading of R236 (log 19), and that Desired is tested and the Step called in one turn (log 29), of
the one loop that every Run() shares (log 30), which when it waits retries whatever Step the state then fetches (log
31), is the model's choice.

Derived: 44_host_interface.md R236, 44_host_interface.md R238, 92_eei_decisions.md D27. -/
def Obligations.RunLoopTurns : Prop :=
  (∀ s : State, enterRun s = if s.desired = .run then { s with runState := .run } else s) ∧
  (∀ s : State, s.awaitingSpace = false → s.desired = .halt → runTurn s = .halted { s with runState := .halt }) ∧
  (∀ s : State, s.awaitingSpace = false → s.desired = .run →
    (stepHeld s = true → runTurn s = .running { s with awaitingSpace := true }) ∧
    (∀ t, stepHeld s = false → step s = .next t → t.fault = none → runTurn s = .running t) ∧
    (∀ t f, step s = .next t → t.fault = some f → runTurn s = .aborted f { t with runState := .halt }) ∧
    (∀ f, s.fault = some f → runTurn s = .aborted f { s with runState := .halt })) ∧
  (∀ s : State, s.awaitingSpace = true →
    (s.txq.length = s.params.txqCap → runTurn s = .running s) ∧
    (∀ t, s.txq.length ≠ s.params.txqCap → stepHeld s = false → step { s with awaitingSpace := false } = .next t →
      t.fault = none → runTurn s = .running t))

/-- rx_push appends, tx_pop takes the oldest byte, a full or empty queue offers neither, and a snapshot shows the state.

A push below capacity appends the byte to RXQ and a push into a full queue is not offered; a pop gives the head of TXQ
and removes it and a pop from an empty queue is not offered; nothing else changes in any of them. A snapshot shows all
registers, MAR, MBR, MPC, CYCLES, State, Desired and the plain cell of each of the 4096 addresses and each of the 256
slots with its breakpoint flag. That a push into a full queue is not offered is the spec's decision D22 (log 23). That
a snapshot shows MAR and MBR is the spec's own reading of the source's word registers in R240, and what the snapshot
holds is DEDUCED (log 26); the plain cells are D31 (log 18).

Derived: 44_host_interface.md R241, 44_host_interface.md R240, 92_eei_decisions.md D22. -/
def Obligations.SerialQueuesAreFirstInFirstOut : Prop :=
  (∀ (s : State) (b : Byte), s.rxq.length < s.params.rxqCap → rxPush b s = ({ s with rxq := s.rxq ++ [b] }, .done)) ∧
  (∀ (s : State) (b : Byte), s.params.rxqCap ≤ s.rxq.length → rxPush b s = (s, .notOffered)) ∧
  (∀ (s : State) (b : Byte) (rest : List Byte), s.txq = b :: rest → txPop s = ({ s with txq := rest }, .byte b)) ∧
  (∀ s : State, s.txq = [] → txPop s = (s, .notOffered)) ∧
  ∀ s : State, (snapshot s).regs = s.regs ∧ (snapshot s).mar = s.mar ∧ (snapshot s).mbr = s.mbr ∧
    (snapshot s).mpc = s.mpc ∧ (snapshot s).cycles = s.cycles ∧ (snapshot s).runState = s.runState ∧
    (snapshot s).desired = s.desired ∧ (snapshot s).memory.length = 4096 ∧
    (∀ a : Addr, (snapshot s).memory[a.toNat]? = some (s.cell a)) ∧
    (snapshot s).slots.length = 256 ∧ ∀ m : MicroAddr, (snapshot s).slots[m.toNat]? = some (ControlStore.slot s.cs m)

/-- A binary image of words, most significant byte first, reads back as the words.

For every list of control words, the bytes of its words, each word's most significant byte first, read back as that
list; the same for memory words of two bytes; and the decoder on bytes reads the first word and leaves the rest. The
image functions and the decoder on bytes are the model's form of R66 (log 25); the name of the decoded word is log 7.

Derived: 20_memory.md R66. -/
def Obligations.ImagesAreBigEndian : Prop :=
  (∀ ws : List ControlWord,
    controlStoreImage (ws.flatMap fun w => [w.extractLsb' 24 8, w.extractLsb' 16 8, w.extractLsb' 8 8, w.extractLsb' 0 8])
      = .ok ws) ∧
  (∀ ws : List Word, memoryImage (ws.flatMap fun w => [w.extractLsb' 8 8, w.extractLsb' 0 8]) = .ok ws) ∧
  (∀ (w : ControlWord) (rest : List Byte),
    decodeBytes (w.extractLsb' 24 8 :: w.extractLsb' 16 8 :: w.extractLsb' 8 8 :: w.extractLsb' 0 8 :: rest)
      = .ok (decode w, rest))

/-- The assembly rule fills the fields no statement sets and keeps the disassembly; rule and spelling are PRESUMED (log 27).

For every microinstruction, the word the assembly rule gives its statements has the same statements again. In it, C is
0 without a register target, ADDR without a jump and A with AMUX = 1; B is 0 where neither MAR nor an ADD or AND uses
it; and where the ALU output is not used, AMUX = SH = A = C = 0, B is 0 unless MAR takes it, and ALU is 2 (pass A)
unless there is no statement at all, which is the word 0. The words 10C0B000, C800D009 and 141A0600 read as the spec
spells them, and `rd;` assembles to 10400000. Display only. The spelling and the assembly rule are not the source's:
they are the spec's decision D26, taken from general knowledge (log 27, PRESUMED).

Derived: 30_encoding.md R116, 30_encoding.md R117. -/
def Obligations.AssemblyRuleFillsUnusedFields : Prop :=
  (∀ (r : RegIndex) (m : MicroInstr), statements r (assembled m) = statements r m) ∧
  (∀ m : MicroInstr,
    let w := assembled m
    (m.enc = false → w.c = 0) ∧ (m.cond = .none → w.addr = 0) ∧ (m.amux = .mbr → w.a = 0) ∧
    (m.mar = false → (m.alu = .passA ∨ m.alu = .invA) → w.b = 0) ∧
    (m.mbr = false → m.enc = false → m.cond ≠ .negative → m.cond ≠ .zero →
      w.amux = .reg ∧ w.sh = .none ∧ w.a = 0 ∧ w.c = 0 ∧ (m.mar = false → w.b = 0) ∧
      ((m.mar = true ∨ m.rd = true ∨ m.wr = true ∨ m.cond = .jump) → w.alu = .passA) ∧
      (m.mar = false → m.rd = false → m.wr = false → m.cond = .none → encodeFields w = 0))) ∧
  disassemble referenceRegIndex (decodeFields 0x10C0B000) = "mar:=b; rd;" ∧
  disassemble referenceRegIndex (decodeFields 0xC800D009) = "alu:=band(mbr, d); if z then goto 9;" ∧
  disassemble referenceRegIndex (decodeFields 0x141A0600) = "a:=lshift(1);" ∧
  encodeFields (assembled { MicroInstr.zero with rd := true }) = 0x10400000

/-- Every Step keeps the invariant of the machine.

From every state that meets the invariant, a Step that answers a next state answers one that meets it: the parameters
are in their domains, the constant registers hold their values, RXS is disabled, pending or ready, TXS is disabled or
ready, no queue exceeds its capacity, and memory and the control store are canonical. That the two are canonical is
about the model's own lists (log 20). The status values are the spec's decision D6 (log 15), the constants' masks D3
(log 2), the capacities D22 (log 4); that the parameters stand in State is log 1, that a held Step and a raised fault
answer a next state log 5 and log 6.

Derived: 10_state.md R22, 10_state.md R23, 10_state.md R38, 10_state.md R39, 10_state.md R41, 20_memory.md R60, 10_state.md R31. -/
def Obligations.StepKeepsTheInvariant : Prop :=
  ∀ s t : State, State.wf s = true → step s = .next t → State.wf t = true

/-- The invariant holds at reset, and at creation for all parameters in their domains.

State.reset meets the invariant, and so does the creation state of any parameters in their domains. The creation state
is the spec's decision D15 (log 16), the reference values are D2 to D6 (log 2) and the capacities the model's (log 4).

Derived: 70_reset_and_hazards.md R297, 10_state.md R22. -/
def Obligations.ResetMeetsTheInvariant : Prop :=
  State.wf State.reset = true ∧ ∀ p : Params, p.wf = true → State.wf (State.creation p) = true

/-- Every interleaving of Steps, run loop turns and host operations keeps the invariant.

From every state that meets the invariant, any sequence of transitions, Steps, turns of the run loop and operations of
the host with any arguments in any order, leaves a state that meets it. The parts of the invariant are as in
StepKeepsTheInvariant (log 1, log 2, log 4, log 15, log 20); the transitions are the model's reading (log 19, log 22,
log 29, log 30).

Derived: 20_memory.md R73, 00_scope.md R6, 44_host_interface.md R243, 10_state.md R23. -/
def Obligations.EveryInterleavingKeepsTheInvariant : Prop :=
  ∀ (es : List Event) (s : State), State.wf s = true → State.wf (afterEvents es s) = true
end

