-- ==== Sys2Proof/Laws/Encoding.lean ====
section
/-! SUPPORT. The codes of the fields and the control word as fields: cutting a field out of an encoded word gives it
back, and the names the decoder gives are well formed. -/

namespace Sys2Proof

@[simp] theorem ABus.ofCode_code (x : ABus) : ABus.ofCode x.code = x := by cases x <;> rfl
@[simp] theorem Cond.ofCode_code (x : Cond) : Cond.ofCode x.code = x := by cases x <;> rfl
@[simp] theorem AluFn.ofCode_code (x : AluFn) : AluFn.ofCode x.code = x := by cases x <;> rfl
@[simp] theorem ShiftFn.ofCode_code (x : ShiftFn) : ShiftFn.ofCode x.code = x := by cases x <;> rfl
@[simp] theorem ABus.code_ofCode (v : BitVec 1) : (ABus.ofCode v).code = v := by revert v; decide
@[simp] theorem Cond.code_ofCode (v : BitVec 2) : (Cond.ofCode v).code = v := by revert v; decide
@[simp] theorem AluFn.code_ofCode (v : BitVec 2) : (AluFn.ofCode v).code = v := by revert v; decide
@[simp] theorem ShiftFn.code_ofCode (v : BitVec 2) : (ShiftFn.ofCode v).code = v := by revert v; decide

/-- A bit of a placed field. -/
theorem getLsbD_placeField {n : Nat} (v : BitVec n) (lo i : Nat) :
    (placeField v lo).getLsbD i = (decide (i < 32) && decide (lo ≤ i) && v.getLsbD (i - lo)) := by
  simp only [placeField, BitVec.getLsbD_shiftLeft, BitVec.getLsbD_setWidth]
  by_cases h1 : i < 32 <;> by_cases h2 : lo ≤ i
  · have : i - lo < 32 := by omega
    simp [h1, h2, this, Nat.not_lt.mpr h2]
  · simp [h2, Nat.lt_of_not_le h2]
  · simp [h1]
  · simp [h1]

/-- The field at its own place. -/
theorem extract_placeField_same {n lo : Nat} (v : BitVec n) (h : lo + n ≤ 32) :
    (placeField v lo).extractLsb' lo n = v := by
  apply BitVec.eq_of_getLsbD_eq
  intro i hi
  have : lo + i < 32 := by omega
  simp [getLsbD_placeField, hi, this, -BitVec.getLsbD_eq_getElem]

/-- A field leaves every other place 0. -/
theorem extract_placeField_other {n lo k at' : Nat} (v : BitVec n) (h : at' + k ≤ lo ∨ lo + n ≤ at') :
    (placeField v lo).extractLsb' at' k = 0#k := by
  apply BitVec.eq_of_getLsbD_eq
  intro i hi
  simp only [BitVec.getLsbD_extractLsb', getLsbD_placeField, BitVec.getLsbD_zero]
  rcases h with h | h
  · have : ¬ lo ≤ at' + i := by omega
    simp [this]
  · have : n ≤ at' + i - lo := by omega
    simp [BitVec.getLsbD_of_ge _ _ this]

/-- Cutting the fields out of an encoded word gives them back: no bit of the word is shared or dropped. -/
theorem decodeFields_encodeFields (m : MicroInstr) : decodeFields (encodeFields m) = m := by
  obtain ⟨amux, cond, alu, sh, mbr, mar, rd, wr, enc, c, b, a, addr⟩ := m
  simp only [decodeFields, encodeFields, BitVec.extractLsb'_or, BitVec.getLsbD_or, getLsbD_placeField]
  simp [extract_placeField_same, extract_placeField_other]

/-- A group is active exactly when the word leaves the row whose match is 0. -/
theorem mem_active (g : Group) (m : MicroInstr) :
    g ∈ m.active ↔
      match g with
      | .aBus => m.amux ≠ .reg
      | .sequencing => m.cond ≠ .none
      | .aluFunction => m.alu ≠ .add
      | .shifter => m.sh ≠ .none
      | .mbrLatch => m.mbr = true
      | .marLatch => m.mar = true
      | .memRequest => m.rd = true ∨ m.wr = true
      | .regWrite => m.enc = true := by
  cases g <;> simp [MicroInstr.active]

/-- No group is active exactly when every group is at the row whose match is 0. -/
theorem active_eq_nil (m : MicroInstr) :
    m.active = [] ↔ m.amux = .reg ∧ m.cond = .none ∧ m.alu = .add ∧ m.sh = .none ∧ m.mbr = false ∧ m.mar = false
      ∧ m.rd = false ∧ m.wr = false ∧ m.enc = false := by
  simp [MicroInstr.active]
  grind

/-- The name of a word stands for that word. -/
@[simp] theorem control_nameOf (m : MicroInstr) : (nameOf m).control = m := by
  unfold nameOf
  split
  · rename_i h
    rw [active_eq_nil] at h
    obtain ⟨amux, cond, alu, sh, mbr, mar, rd, wr, enc, c, b, a, addr⟩ := m
    obtain ⟨rfl, rfl, rfl, rfl, rfl, rfl, rfl, rfl, rfl⟩ := h
    simp only [nameOfOperands]
    repeat' split
    all_goals simp_all [Instr.control, MicroInstr.zero]
  · rename_i g h
    have hg : g ∈ m.active := by simp [h]
    rw [mem_active] at hg
    obtain ⟨amux, cond, alu, sh, mbr, mar, rd, wr, enc, c, b, a, addr⟩ := m
    cases g <;> simp only [nameOfGroup] <;> (try split) <;> simp_all [Instr.control]
    cases amux <;> simp_all
  · rfl

/-- The decoder's name is well formed. -/
theorem wellFormed_nameOf (m : MicroInstr) : (nameOf m).wellFormed = true := by
  unfold nameOf
  split
  · rename_i h
    simp only [nameOfOperands]
    repeat' split
    all_goals simp_all [Instr.wellFormed]
  · rename_i g h
    have hg : g ∈ m.active := by simp [h]
    rw [mem_active] at hg
    cases g <;> simp only [nameOfGroup] <;> (try split) <;> simp_all [Instr.wellFormed]
  · rename_i h0 h1
    simp only [Instr.wellFormed, decide_eq_true_eq]
    match hm : m.active with
    | [] => exact absurd hm h0
    | [g] => exact absurd hm (h1 g)
    | _ :: _ :: _ => simp

end Sys2Proof
end

