-- ==== Sys2Proof/Laws/State.lean ====
section
/-! SUPPORT. One lemma for each field and each update of State, so that no proof unfolds a record update. -/

namespace Sys2Proof.Machine

/-! `raise` -/

@[simp] theorem raise_params (f : Fault) (s : State) : (raise f s).params = s.params := rfl
@[simp] theorem raise_regs (f : Fault) (s : State) : (raise f s).regs = s.regs := rfl
@[simp] theorem raise_mar (f : Fault) (s : State) : (raise f s).mar = s.mar := rfl
@[simp] theorem raise_mbr (f : Fault) (s : State) : (raise f s).mbr = s.mbr := rfl
@[simp] theorem raise_stgA (f : Fault) (s : State) : (raise f s).stgA = s.stgA := rfl
@[simp] theorem raise_stgB (f : Fault) (s : State) : (raise f s).stgB = s.stgB := rfl
@[simp] theorem raise_mpc (f : Fault) (s : State) : (raise f s).mpc = s.mpc := rfl
@[simp] theorem raise_cycles (f : Fault) (s : State) : (raise f s).cycles = s.cycles := rfl
@[simp] theorem raise_runState (f : Fault) (s : State) : (raise f s).runState = s.runState := rfl
@[simp] theorem raise_desired (f : Fault) (s : State) : (raise f s).desired = s.desired := rfl
@[simp] theorem raise_rxs (f : Fault) (s : State) : (raise f s).rxs = s.rxs := rfl
@[simp] theorem raise_txs (f : Fault) (s : State) : (raise f s).txs = s.txs := rfl
@[simp] theorem raise_cs (f : Fault) (s : State) : (raise f s).cs = s.cs := rfl
@[simp] theorem raise_mem (f : Fault) (s : State) : (raise f s).mem = s.mem := rfl
@[simp] theorem raise_rxq (f : Fault) (s : State) : (raise f s).rxq = s.rxq := rfl
@[simp] theorem raise_txq (f : Fault) (s : State) : (raise f s).txq = s.txq := rfl
@[simp] theorem raise_fault (f : Fault) (s : State) : (raise f s).fault = s.fault.or (some f) := rfl
@[simp] theorem raise_awaitingSpace (f : Fault) (s : State) : (raise f s).awaitingSpace = s.awaitingSpace := rfl

/-! `setReg` -/

@[simp] theorem setReg_params (s : State) (i : RegIx) (v : Word) : (s.setReg i v).params = s.params := rfl
@[simp] theorem setReg_regs (s : State) (i : RegIx) (v : Word) : (s.setReg i v).regs = s.regs.set i.toNat v i.isLt := rfl
@[simp] theorem setReg_mar (s : State) (i : RegIx) (v : Word) : (s.setReg i v).mar = s.mar := rfl
@[simp] theorem setReg_mbr (s : State) (i : RegIx) (v : Word) : (s.setReg i v).mbr = s.mbr := rfl
@[simp] theorem setReg_stgA (s : State) (i : RegIx) (v : Word) : (s.setReg i v).stgA = s.stgA := rfl
@[simp] theorem setReg_stgB (s : State) (i : RegIx) (v : Word) : (s.setReg i v).stgB = s.stgB := rfl
@[simp] theorem setReg_mpc (s : State) (i : RegIx) (v : Word) : (s.setReg i v).mpc = s.mpc := rfl
@[simp] theorem setReg_cycles (s : State) (i : RegIx) (v : Word) : (s.setReg i v).cycles = s.cycles := rfl
@[simp] theorem setReg_runState (s : State) (i : RegIx) (v : Word) : (s.setReg i v).runState = s.runState := rfl
@[simp] theorem setReg_desired (s : State) (i : RegIx) (v : Word) : (s.setReg i v).desired = s.desired := rfl
@[simp] theorem setReg_rxs (s : State) (i : RegIx) (v : Word) : (s.setReg i v).rxs = s.rxs := rfl
@[simp] theorem setReg_txs (s : State) (i : RegIx) (v : Word) : (s.setReg i v).txs = s.txs := rfl
@[simp] theorem setReg_cs (s : State) (i : RegIx) (v : Word) : (s.setReg i v).cs = s.cs := rfl
@[simp] theorem setReg_mem (s : State) (i : RegIx) (v : Word) : (s.setReg i v).mem = s.mem := rfl
@[simp] theorem setReg_rxq (s : State) (i : RegIx) (v : Word) : (s.setReg i v).rxq = s.rxq := rfl
@[simp] theorem setReg_txq (s : State) (i : RegIx) (v : Word) : (s.setReg i v).txq = s.txq := rfl
@[simp] theorem setReg_fault (s : State) (i : RegIx) (v : Word) : (s.setReg i v).fault = s.fault := rfl
@[simp] theorem setReg_awaitingSpace (s : State) (i : RegIx) (v : Word) : (s.setReg i v).awaitingSpace = s.awaitingSpace := rfl

/-! `storeCell` -/

@[simp] theorem storeCell_params (s : State) (a : Addr) (v : Word) : (s.storeCell a v).params = s.params := rfl
@[simp] theorem storeCell_regs (s : State) (a : Addr) (v : Word) : (s.storeCell a v).regs = s.regs := rfl
@[simp] theorem storeCell_mar (s : State) (a : Addr) (v : Word) : (s.storeCell a v).mar = s.mar := rfl
@[simp] theorem storeCell_mbr (s : State) (a : Addr) (v : Word) : (s.storeCell a v).mbr = s.mbr := rfl
@[simp] theorem storeCell_stgA (s : State) (a : Addr) (v : Word) : (s.storeCell a v).stgA = s.stgA := rfl
@[simp] theorem storeCell_stgB (s : State) (a : Addr) (v : Word) : (s.storeCell a v).stgB = s.stgB := rfl
@[simp] theorem storeCell_mpc (s : State) (a : Addr) (v : Word) : (s.storeCell a v).mpc = s.mpc := rfl
@[simp] theorem storeCell_cycles (s : State) (a : Addr) (v : Word) : (s.storeCell a v).cycles = s.cycles := rfl
@[simp] theorem storeCell_runState (s : State) (a : Addr) (v : Word) : (s.storeCell a v).runState = s.runState := rfl
@[simp] theorem storeCell_desired (s : State) (a : Addr) (v : Word) : (s.storeCell a v).desired = s.desired := rfl
@[simp] theorem storeCell_rxs (s : State) (a : Addr) (v : Word) : (s.storeCell a v).rxs = s.rxs := rfl
@[simp] theorem storeCell_txs (s : State) (a : Addr) (v : Word) : (s.storeCell a v).txs = s.txs := rfl
@[simp] theorem storeCell_cs (s : State) (a : Addr) (v : Word) : (s.storeCell a v).cs = s.cs := rfl
@[simp] theorem storeCell_mem (s : State) (a : Addr) (v : Word) : (s.storeCell a v).mem = Memory.write s.mem a v := rfl
@[simp] theorem storeCell_rxq (s : State) (a : Addr) (v : Word) : (s.storeCell a v).rxq = s.rxq := rfl
@[simp] theorem storeCell_txq (s : State) (a : Addr) (v : Word) : (s.storeCell a v).txq = s.txq := rfl
@[simp] theorem storeCell_fault (s : State) (a : Addr) (v : Word) : (s.storeCell a v).fault = s.fault := rfl
@[simp] theorem storeCell_awaitingSpace (s : State) (a : Addr) (v : Word) : (s.storeCell a v).awaitingSpace = s.awaitingSpace := rfl

/-! `sequence` -/

@[simp] theorem sequence_params (m : MicroInstr) (f : Word) (s : State) : (sequence m f s).params = s.params := rfl
@[simp] theorem sequence_regs (m : MicroInstr) (f : Word) (s : State) : (sequence m f s).regs = s.regs := rfl
@[simp] theorem sequence_mar (m : MicroInstr) (f : Word) (s : State) : (sequence m f s).mar = s.mar := rfl
@[simp] theorem sequence_mbr (m : MicroInstr) (f : Word) (s : State) : (sequence m f s).mbr = s.mbr := rfl
@[simp] theorem sequence_stgA (m : MicroInstr) (f : Word) (s : State) : (sequence m f s).stgA = s.stgA := rfl
@[simp] theorem sequence_stgB (m : MicroInstr) (f : Word) (s : State) : (sequence m f s).stgB = s.stgB := rfl
@[simp] theorem sequence_mpc (m : MicroInstr) (f : Word) (s : State) : (sequence m f s).mpc = nextMpc s.mpc m.cond m.addr (negativeFlag f) (zeroFlag f) := rfl
@[simp] theorem sequence_cycles (m : MicroInstr) (f : Word) (s : State) : (sequence m f s).cycles = s.cycles := rfl
@[simp] theorem sequence_runState (m : MicroInstr) (f : Word) (s : State) : (sequence m f s).runState = s.runState := rfl
@[simp] theorem sequence_desired (m : MicroInstr) (f : Word) (s : State) : (sequence m f s).desired = s.desired := rfl
@[simp] theorem sequence_rxs (m : MicroInstr) (f : Word) (s : State) : (sequence m f s).rxs = s.rxs := rfl
@[simp] theorem sequence_txs (m : MicroInstr) (f : Word) (s : State) : (sequence m f s).txs = s.txs := rfl
@[simp] theorem sequence_cs (m : MicroInstr) (f : Word) (s : State) : (sequence m f s).cs = s.cs := rfl
@[simp] theorem sequence_mem (m : MicroInstr) (f : Word) (s : State) : (sequence m f s).mem = s.mem := rfl
@[simp] theorem sequence_rxq (m : MicroInstr) (f : Word) (s : State) : (sequence m f s).rxq = s.rxq := rfl
@[simp] theorem sequence_txq (m : MicroInstr) (f : Word) (s : State) : (sequence m f s).txq = s.txq := rfl
@[simp] theorem sequence_fault (m : MicroInstr) (f : Word) (s : State) : (sequence m f s).fault = s.fault := rfl
@[simp] theorem sequence_awaitingSpace (m : MicroInstr) (f : Word) (s : State) : (sequence m f s).awaitingSpace = s.awaitingSpace := rfl

/-! `countCycle` -/

@[simp] theorem countCycle_params (s : State) : (countCycle s).params = s.params := rfl
@[simp] theorem countCycle_regs (s : State) : (countCycle s).regs = s.regs := rfl
@[simp] theorem countCycle_mar (s : State) : (countCycle s).mar = s.mar := rfl
@[simp] theorem countCycle_mbr (s : State) : (countCycle s).mbr = s.mbr := rfl
@[simp] theorem countCycle_stgA (s : State) : (countCycle s).stgA = s.stgA := rfl
@[simp] theorem countCycle_stgB (s : State) : (countCycle s).stgB = s.stgB := rfl
@[simp] theorem countCycle_mpc (s : State) : (countCycle s).mpc = s.mpc := rfl
@[simp] theorem countCycle_cycles (s : State) : (countCycle s).cycles = s.cycles + 1 := rfl
@[simp] theorem countCycle_runState (s : State) : (countCycle s).runState = s.runState := rfl
@[simp] theorem countCycle_desired (s : State) : (countCycle s).desired = s.desired := rfl
@[simp] theorem countCycle_rxs (s : State) : (countCycle s).rxs = s.rxs := rfl
@[simp] theorem countCycle_txs (s : State) : (countCycle s).txs = s.txs := rfl
@[simp] theorem countCycle_cs (s : State) : (countCycle s).cs = s.cs := rfl
@[simp] theorem countCycle_mem (s : State) : (countCycle s).mem = s.mem := rfl
@[simp] theorem countCycle_rxq (s : State) : (countCycle s).rxq = s.rxq := rfl
@[simp] theorem countCycle_txq (s : State) : (countCycle s).txq = s.txq := rfl
@[simp] theorem countCycle_fault (s : State) : (countCycle s).fault = s.fault := rfl
@[simp] theorem countCycle_awaitingSpace (s : State) : (countCycle s).awaitingSpace = s.awaitingSpace := rfl

/-! `latchMar` -/

@[simp] theorem latchMar_params (m : MicroInstr) (v : Word) (s : State) : (latchMar m v s).params = s.params := by unfold latchMar; split <;> rfl
@[simp] theorem latchMar_regs (m : MicroInstr) (v : Word) (s : State) : (latchMar m v s).regs = s.regs := by unfold latchMar; split <;> rfl
@[simp] theorem latchMar_mar (m : MicroInstr) (v : Word) (s : State) : (latchMar m v s).mar = if m.mar then v else s.mar := by unfold latchMar; split <;> rfl
@[simp] theorem latchMar_mbr (m : MicroInstr) (v : Word) (s : State) : (latchMar m v s).mbr = s.mbr := by unfold latchMar; split <;> rfl
@[simp] theorem latchMar_stgA (m : MicroInstr) (v : Word) (s : State) : (latchMar m v s).stgA = s.stgA := by unfold latchMar; split <;> rfl
@[simp] theorem latchMar_stgB (m : MicroInstr) (v : Word) (s : State) : (latchMar m v s).stgB = s.stgB := by unfold latchMar; split <;> rfl
@[simp] theorem latchMar_mpc (m : MicroInstr) (v : Word) (s : State) : (latchMar m v s).mpc = s.mpc := by unfold latchMar; split <;> rfl
@[simp] theorem latchMar_cycles (m : MicroInstr) (v : Word) (s : State) : (latchMar m v s).cycles = s.cycles := by unfold latchMar; split <;> rfl
@[simp] theorem latchMar_runState (m : MicroInstr) (v : Word) (s : State) : (latchMar m v s).runState = s.runState := by unfold latchMar; split <;> rfl
@[simp] theorem latchMar_desired (m : MicroInstr) (v : Word) (s : State) : (latchMar m v s).desired = s.desired := by unfold latchMar; split <;> rfl
@[simp] theorem latchMar_rxs (m : MicroInstr) (v : Word) (s : State) : (latchMar m v s).rxs = s.rxs := by unfold latchMar; split <;> rfl
@[simp] theorem latchMar_txs (m : MicroInstr) (v : Word) (s : State) : (latchMar m v s).txs = s.txs := by unfold latchMar; split <;> rfl
@[simp] theorem latchMar_cs (m : MicroInstr) (v : Word) (s : State) : (latchMar m v s).cs = s.cs := by unfold latchMar; split <;> rfl
@[simp] theorem latchMar_mem (m : MicroInstr) (v : Word) (s : State) : (latchMar m v s).mem = s.mem := by unfold latchMar; split <;> rfl
@[simp] theorem latchMar_rxq (m : MicroInstr) (v : Word) (s : State) : (latchMar m v s).rxq = s.rxq := by unfold latchMar; split <;> rfl
@[simp] theorem latchMar_txq (m : MicroInstr) (v : Word) (s : State) : (latchMar m v s).txq = s.txq := by unfold latchMar; split <;> rfl
@[simp] theorem latchMar_fault (m : MicroInstr) (v : Word) (s : State) : (latchMar m v s).fault = s.fault := by unfold latchMar; split <;> rfl
@[simp] theorem latchMar_awaitingSpace (m : MicroInstr) (v : Word) (s : State) : (latchMar m v s).awaitingSpace = s.awaitingSpace := by unfold latchMar; split <;> rfl

/-! `latchMbr` -/

@[simp] theorem latchMbr_params (m : MicroInstr) (v : Word) (s : State) : (latchMbr m v s).params = s.params := by unfold latchMbr; split <;> rfl
@[simp] theorem latchMbr_regs (m : MicroInstr) (v : Word) (s : State) : (latchMbr m v s).regs = s.regs := by unfold latchMbr; split <;> rfl
@[simp] theorem latchMbr_mar (m : MicroInstr) (v : Word) (s : State) : (latchMbr m v s).mar = s.mar := by unfold latchMbr; split <;> rfl
@[simp] theorem latchMbr_mbr (m : MicroInstr) (v : Word) (s : State) : (latchMbr m v s).mbr = if m.mbr then v else s.mbr := by unfold latchMbr; split <;> rfl
@[simp] theorem latchMbr_stgA (m : MicroInstr) (v : Word) (s : State) : (latchMbr m v s).stgA = s.stgA := by unfold latchMbr; split <;> rfl
@[simp] theorem latchMbr_stgB (m : MicroInstr) (v : Word) (s : State) : (latchMbr m v s).stgB = s.stgB := by unfold latchMbr; split <;> rfl
@[simp] theorem latchMbr_mpc (m : MicroInstr) (v : Word) (s : State) : (latchMbr m v s).mpc = s.mpc := by unfold latchMbr; split <;> rfl
@[simp] theorem latchMbr_cycles (m : MicroInstr) (v : Word) (s : State) : (latchMbr m v s).cycles = s.cycles := by unfold latchMbr; split <;> rfl
@[simp] theorem latchMbr_runState (m : MicroInstr) (v : Word) (s : State) : (latchMbr m v s).runState = s.runState := by unfold latchMbr; split <;> rfl
@[simp] theorem latchMbr_desired (m : MicroInstr) (v : Word) (s : State) : (latchMbr m v s).desired = s.desired := by unfold latchMbr; split <;> rfl
@[simp] theorem latchMbr_rxs (m : MicroInstr) (v : Word) (s : State) : (latchMbr m v s).rxs = s.rxs := by unfold latchMbr; split <;> rfl
@[simp] theorem latchMbr_txs (m : MicroInstr) (v : Word) (s : State) : (latchMbr m v s).txs = s.txs := by unfold latchMbr; split <;> rfl
@[simp] theorem latchMbr_cs (m : MicroInstr) (v : Word) (s : State) : (latchMbr m v s).cs = s.cs := by unfold latchMbr; split <;> rfl
@[simp] theorem latchMbr_mem (m : MicroInstr) (v : Word) (s : State) : (latchMbr m v s).mem = s.mem := by unfold latchMbr; split <;> rfl
@[simp] theorem latchMbr_rxq (m : MicroInstr) (v : Word) (s : State) : (latchMbr m v s).rxq = s.rxq := by unfold latchMbr; split <;> rfl
@[simp] theorem latchMbr_txq (m : MicroInstr) (v : Word) (s : State) : (latchMbr m v s).txq = s.txq := by unfold latchMbr; split <;> rfl
@[simp] theorem latchMbr_fault (m : MicroInstr) (v : Word) (s : State) : (latchMbr m v s).fault = s.fault := by unfold latchMbr; split <;> rfl
@[simp] theorem latchMbr_awaitingSpace (m : MicroInstr) (v : Word) (s : State) : (latchMbr m v s).awaitingSpace = s.awaitingSpace := by unfold latchMbr; split <;> rfl

/-! `breakpointCheck` -/

@[simp] theorem breakpointCheck_params (s : State) : (breakpointCheck s).params = s.params := by
  unfold breakpointCheck; split <;> (try split) <;> rfl
@[simp] theorem breakpointCheck_regs (s : State) : (breakpointCheck s).regs = s.regs := by
  unfold breakpointCheck; split <;> (try split) <;> rfl
@[simp] theorem breakpointCheck_mar (s : State) : (breakpointCheck s).mar = s.mar := by
  unfold breakpointCheck; split <;> (try split) <;> rfl
@[simp] theorem breakpointCheck_mbr (s : State) : (breakpointCheck s).mbr = s.mbr := by
  unfold breakpointCheck; split <;> (try split) <;> rfl
@[simp] theorem breakpointCheck_stgA (s : State) : (breakpointCheck s).stgA = s.stgA := by
  unfold breakpointCheck; split <;> (try split) <;> rfl
@[simp] theorem breakpointCheck_stgB (s : State) : (breakpointCheck s).stgB = s.stgB := by
  unfold breakpointCheck; split <;> (try split) <;> rfl
@[simp] theorem breakpointCheck_mpc (s : State) : (breakpointCheck s).mpc = s.mpc := by
  unfold breakpointCheck; split <;> (try split) <;> rfl
@[simp] theorem breakpointCheck_cycles (s : State) : (breakpointCheck s).cycles = s.cycles := by
  unfold breakpointCheck; split <;> (try split) <;> rfl
@[simp] theorem breakpointCheck_runState (s : State) : (breakpointCheck s).runState = s.runState := by
  unfold breakpointCheck; split <;> (try split) <;> rfl
@[simp] theorem breakpointCheck_desired (s : State) :
    (breakpointCheck s).desired = if breakpointAt s then .halt else s.desired := by
  cases h : ControlStore.slot s.cs s.mpc <;> simp [breakpointCheck, breakpointAt, h]
  split <;> rfl
@[simp] theorem breakpointCheck_rxs (s : State) : (breakpointCheck s).rxs = s.rxs := by
  unfold breakpointCheck; split <;> (try split) <;> rfl
@[simp] theorem breakpointCheck_txs (s : State) : (breakpointCheck s).txs = s.txs := by
  unfold breakpointCheck; split <;> (try split) <;> rfl
@[simp] theorem breakpointCheck_cs (s : State) : (breakpointCheck s).cs = s.cs := by
  unfold breakpointCheck; split <;> (try split) <;> rfl
@[simp] theorem breakpointCheck_mem (s : State) : (breakpointCheck s).mem = s.mem := by
  unfold breakpointCheck; split <;> (try split) <;> rfl
@[simp] theorem breakpointCheck_rxq (s : State) : (breakpointCheck s).rxq = s.rxq := by
  unfold breakpointCheck; split <;> (try split) <;> rfl
@[simp] theorem breakpointCheck_txq (s : State) : (breakpointCheck s).txq = s.txq := by
  unfold breakpointCheck; split <;> (try split) <;> rfl
@[simp] theorem breakpointCheck_fault (s : State) : (breakpointCheck s).fault = s.fault := by
  unfold breakpointCheck; split <;> (try split) <;> rfl
@[simp] theorem breakpointCheck_awaitingSpace (s : State) : (breakpointCheck s).awaitingSpace = s.awaitingSpace := by
  unfold breakpointCheck; split <;> (try split) <;> rfl

/-! `receivePoll` -/

@[simp] theorem receivePoll_params (s : State) : (receivePoll s).params = s.params := by unfold receivePoll; split <;> (try split) <;> rfl
@[simp] theorem receivePoll_regs (s : State) : (receivePoll s).regs = s.regs := by unfold receivePoll; split <;> (try split) <;> rfl
@[simp] theorem receivePoll_mar (s : State) : (receivePoll s).mar = s.mar := by unfold receivePoll; split <;> (try split) <;> rfl
@[simp] theorem receivePoll_mbr (s : State) : (receivePoll s).mbr = s.mbr := by unfold receivePoll; split <;> (try split) <;> rfl
@[simp] theorem receivePoll_stgA (s : State) : (receivePoll s).stgA = s.stgA := by unfold receivePoll; split <;> (try split) <;> rfl
@[simp] theorem receivePoll_stgB (s : State) : (receivePoll s).stgB = s.stgB := by unfold receivePoll; split <;> (try split) <;> rfl
@[simp] theorem receivePoll_mpc (s : State) : (receivePoll s).mpc = s.mpc := by unfold receivePoll; split <;> (try split) <;> rfl
@[simp] theorem receivePoll_cycles (s : State) : (receivePoll s).cycles = s.cycles := by unfold receivePoll; split <;> (try split) <;> rfl
@[simp] theorem receivePoll_runState (s : State) : (receivePoll s).runState = s.runState := by unfold receivePoll; split <;> (try split) <;> rfl
@[simp] theorem receivePoll_desired (s : State) : (receivePoll s).desired = s.desired := by unfold receivePoll; split <;> (try split) <;> rfl
@[simp] theorem receivePoll_txs (s : State) : (receivePoll s).txs = s.txs := by unfold receivePoll; split <;> (try split) <;> rfl
@[simp] theorem receivePoll_cs (s : State) : (receivePoll s).cs = s.cs := by unfold receivePoll; split <;> (try split) <;> rfl
@[simp] theorem receivePoll_txq (s : State) : (receivePoll s).txq = s.txq := by unfold receivePoll; split <;> (try split) <;> rfl
@[simp] theorem receivePoll_fault (s : State) : (receivePoll s).fault = s.fault := by unfold receivePoll; split <;> (try split) <;> rfl
@[simp] theorem receivePoll_awaitingSpace (s : State) : (receivePoll s).awaitingSpace = s.awaitingSpace := by unfold receivePoll; split <;> (try split) <;> rfl

/-! `endOfStep` -/

@[simp] theorem endOfStep_params (s : State) : (endOfStep s).params = s.params := by simp [endOfStep]
@[simp] theorem endOfStep_regs (s : State) : (endOfStep s).regs = s.regs := by simp [endOfStep]
@[simp] theorem endOfStep_mar (s : State) : (endOfStep s).mar = s.mar := by simp [endOfStep]
@[simp] theorem endOfStep_mbr (s : State) : (endOfStep s).mbr = s.mbr := by simp [endOfStep]
@[simp] theorem endOfStep_stgA (s : State) : (endOfStep s).stgA = s.stgA := by simp [endOfStep]
@[simp] theorem endOfStep_stgB (s : State) : (endOfStep s).stgB = s.stgB := by simp [endOfStep]
@[simp] theorem endOfStep_mpc (s : State) : (endOfStep s).mpc = s.mpc := by simp [endOfStep]
@[simp] theorem endOfStep_cycles (s : State) : (endOfStep s).cycles = s.cycles + 1 := by simp [endOfStep]
@[simp] theorem endOfStep_runState (s : State) : (endOfStep s).runState = s.runState := by simp [endOfStep]
@[simp] theorem endOfStep_desired (s : State) :
    (endOfStep s).desired = if breakpointAt s then .halt else s.desired := by
  simp only [endOfStep, receivePoll_desired, breakpointCheck_desired, countCycle_desired]
  rfl
@[simp] theorem endOfStep_txs (s : State) : (endOfStep s).txs = s.txs := by simp [endOfStep]
@[simp] theorem endOfStep_cs (s : State) : (endOfStep s).cs = s.cs := by simp [endOfStep]
@[simp] theorem endOfStep_txq (s : State) : (endOfStep s).txq = s.txq := by simp [endOfStep]
@[simp] theorem endOfStep_fault (s : State) : (endOfStep s).fault = s.fault := by simp [endOfStep]
@[simp] theorem endOfStep_awaitingSpace (s : State) : (endOfStep s).awaitingSpace = s.awaitingSpace := by simp [endOfStep]

/-! `acknowledgeReceive` -/

@[simp] theorem acknowledgeReceive_params (s : State) : (acknowledgeReceive s).params = s.params := by unfold acknowledgeReceive; split <;> rfl
@[simp] theorem acknowledgeReceive_regs (s : State) : (acknowledgeReceive s).regs = s.regs := by unfold acknowledgeReceive; split <;> rfl
@[simp] theorem acknowledgeReceive_mar (s : State) : (acknowledgeReceive s).mar = s.mar := by unfold acknowledgeReceive; split <;> rfl
@[simp] theorem acknowledgeReceive_mbr (s : State) : (acknowledgeReceive s).mbr = s.mbr := by unfold acknowledgeReceive; split <;> rfl
@[simp] theorem acknowledgeReceive_stgA (s : State) : (acknowledgeReceive s).stgA = s.stgA := by unfold acknowledgeReceive; split <;> rfl
@[simp] theorem acknowledgeReceive_stgB (s : State) : (acknowledgeReceive s).stgB = s.stgB := by unfold acknowledgeReceive; split <;> rfl
@[simp] theorem acknowledgeReceive_mpc (s : State) : (acknowledgeReceive s).mpc = s.mpc := by unfold acknowledgeReceive; split <;> rfl
@[simp] theorem acknowledgeReceive_cycles (s : State) : (acknowledgeReceive s).cycles = s.cycles := by unfold acknowledgeReceive; split <;> rfl
@[simp] theorem acknowledgeReceive_runState (s : State) : (acknowledgeReceive s).runState = s.runState := by unfold acknowledgeReceive; split <;> rfl
@[simp] theorem acknowledgeReceive_desired (s : State) : (acknowledgeReceive s).desired = s.desired := by unfold acknowledgeReceive; split <;> rfl
@[simp] theorem acknowledgeReceive_txs (s : State) : (acknowledgeReceive s).txs = s.txs := by unfold acknowledgeReceive; split <;> rfl
@[simp] theorem acknowledgeReceive_cs (s : State) : (acknowledgeReceive s).cs = s.cs := by unfold acknowledgeReceive; split <;> rfl
@[simp] theorem acknowledgeReceive_mem (s : State) : (acknowledgeReceive s).mem = s.mem := by unfold acknowledgeReceive; split <;> rfl
@[simp] theorem acknowledgeReceive_rxq (s : State) : (acknowledgeReceive s).rxq = s.rxq := by unfold acknowledgeReceive; split <;> rfl
@[simp] theorem acknowledgeReceive_txq (s : State) : (acknowledgeReceive s).txq = s.txq := by unfold acknowledgeReceive; split <;> rfl
@[simp] theorem acknowledgeReceive_fault (s : State) : (acknowledgeReceive s).fault = s.fault := by unfold acknowledgeReceive; split <;> rfl
@[simp] theorem acknowledgeReceive_awaitingSpace (s : State) : (acknowledgeReceive s).awaitingSpace = s.awaitingSpace := by unfold acknowledgeReceive; split <;> rfl

/-! `memReadEffect` -/

@[simp] theorem memReadEffect_params (a : Addr) (s : State) : (memReadEffect a s).params = s.params := by unfold memReadEffect; split <;> simp
@[simp] theorem memReadEffect_regs (a : Addr) (s : State) : (memReadEffect a s).regs = s.regs := by unfold memReadEffect; split <;> simp
@[simp] theorem memReadEffect_mar (a : Addr) (s : State) : (memReadEffect a s).mar = s.mar := by unfold memReadEffect; split <;> simp
@[simp] theorem memReadEffect_mbr (a : Addr) (s : State) : (memReadEffect a s).mbr = s.mbr := by unfold memReadEffect; split <;> simp
@[simp] theorem memReadEffect_stgA (a : Addr) (s : State) : (memReadEffect a s).stgA = s.stgA := by unfold memReadEffect; split <;> simp
@[simp] theorem memReadEffect_stgB (a : Addr) (s : State) : (memReadEffect a s).stgB = s.stgB := by unfold memReadEffect; split <;> simp
@[simp] theorem memReadEffect_mpc (a : Addr) (s : State) : (memReadEffect a s).mpc = s.mpc := by unfold memReadEffect; split <;> simp
@[simp] theorem memReadEffect_cycles (a : Addr) (s : State) : (memReadEffect a s).cycles = s.cycles := by unfold memReadEffect; split <;> simp
@[simp] theorem memReadEffect_runState (a : Addr) (s : State) : (memReadEffect a s).runState = s.runState := by unfold memReadEffect; split <;> simp
@[simp] theorem memReadEffect_desired (a : Addr) (s : State) : (memReadEffect a s).desired = s.desired := by unfold memReadEffect; split <;> simp
@[simp] theorem memReadEffect_txs (a : Addr) (s : State) : (memReadEffect a s).txs = s.txs := by unfold memReadEffect; split <;> simp
@[simp] theorem memReadEffect_cs (a : Addr) (s : State) : (memReadEffect a s).cs = s.cs := by unfold memReadEffect; split <;> simp
@[simp] theorem memReadEffect_mem (a : Addr) (s : State) : (memReadEffect a s).mem = s.mem := by unfold memReadEffect; split <;> simp
@[simp] theorem memReadEffect_rxq (a : Addr) (s : State) : (memReadEffect a s).rxq = s.rxq := by unfold memReadEffect; split <;> simp
@[simp] theorem memReadEffect_txq (a : Addr) (s : State) : (memReadEffect a s).txq = s.txq := by unfold memReadEffect; split <;> simp
@[simp] theorem memReadEffect_fault (a : Addr) (s : State) : (memReadEffect a s).fault = s.fault := by unfold memReadEffect; split <;> simp
@[simp] theorem memReadEffect_awaitingSpace (a : Addr) (s : State) : (memReadEffect a s).awaitingSpace = s.awaitingSpace := by unfold memReadEffect; split <;> simp

/-! `readCycle` -/

@[simp] theorem readCycle_params (s : State) : (readCycle s).params = s.params := by unfold readCycle; split <;> simp
@[simp] theorem readCycle_regs (s : State) : (readCycle s).regs = s.regs := by unfold readCycle; split <;> simp
@[simp] theorem readCycle_mar (s : State) : (readCycle s).mar = s.mar := by unfold readCycle; split <;> simp
@[simp] theorem readCycle_stgB (s : State) : (readCycle s).stgB = s.stgB := by unfold readCycle; split <;> simp
@[simp] theorem readCycle_mpc (s : State) : (readCycle s).mpc = s.mpc := by unfold readCycle; split <;> simp
@[simp] theorem readCycle_cycles (s : State) : (readCycle s).cycles = s.cycles := by unfold readCycle; split <;> simp
@[simp] theorem readCycle_runState (s : State) : (readCycle s).runState = s.runState := by unfold readCycle; split <;> simp
@[simp] theorem readCycle_desired (s : State) : (readCycle s).desired = s.desired := by unfold readCycle; split <;> simp
@[simp] theorem readCycle_txs (s : State) : (readCycle s).txs = s.txs := by unfold readCycle; split <;> simp
@[simp] theorem readCycle_cs (s : State) : (readCycle s).cs = s.cs := by unfold readCycle; split <;> simp
@[simp] theorem readCycle_mem (s : State) : (readCycle s).mem = s.mem := by unfold readCycle; split <;> simp
@[simp] theorem readCycle_rxq (s : State) : (readCycle s).rxq = s.rxq := by unfold readCycle; split <;> simp
@[simp] theorem readCycle_txq (s : State) : (readCycle s).txq = s.txq := by unfold readCycle; split <;> simp
@[simp] theorem readCycle_fault (s : State) : (readCycle s).fault = s.fault := by unfold readCycle; split <;> simp
@[simp] theorem readCycle_awaitingSpace (s : State) : (readCycle s).awaitingSpace = s.awaitingSpace := by unfold readCycle; split <;> simp

/-! `transmit` -/

@[simp] theorem transmit_params (a : Addr) (v : Word) (s : State) : (transmit a v s).params = s.params := by simp only [transmit]; split <;> rfl
@[simp] theorem transmit_regs (a : Addr) (v : Word) (s : State) : (transmit a v s).regs = s.regs := by simp only [transmit]; split <;> rfl
@[simp] theorem transmit_mar (a : Addr) (v : Word) (s : State) : (transmit a v s).mar = s.mar := by simp only [transmit]; split <;> rfl
@[simp] theorem transmit_mbr (a : Addr) (v : Word) (s : State) : (transmit a v s).mbr = s.mbr := by simp only [transmit]; split <;> rfl
@[simp] theorem transmit_stgA (a : Addr) (v : Word) (s : State) : (transmit a v s).stgA = s.stgA := by simp only [transmit]; split <;> rfl
@[simp] theorem transmit_stgB (a : Addr) (v : Word) (s : State) : (transmit a v s).stgB = s.stgB := by simp only [transmit]; split <;> rfl
@[simp] theorem transmit_mpc (a : Addr) (v : Word) (s : State) : (transmit a v s).mpc = s.mpc := by simp only [transmit]; split <;> rfl
@[simp] theorem transmit_cycles (a : Addr) (v : Word) (s : State) : (transmit a v s).cycles = s.cycles := by simp only [transmit]; split <;> rfl
@[simp] theorem transmit_runState (a : Addr) (v : Word) (s : State) : (transmit a v s).runState = s.runState := by simp only [transmit]; split <;> rfl
@[simp] theorem transmit_desired (a : Addr) (v : Word) (s : State) : (transmit a v s).desired = s.desired := by simp only [transmit]; split <;> rfl
@[simp] theorem transmit_rxs (a : Addr) (v : Word) (s : State) : (transmit a v s).rxs = s.rxs := by simp only [transmit]; split <;> rfl
@[simp] theorem transmit_cs (a : Addr) (v : Word) (s : State) : (transmit a v s).cs = s.cs := by simp only [transmit]; split <;> rfl
@[simp] theorem transmit_mem (a : Addr) (v : Word) (s : State) : (transmit a v s).mem = Memory.write s.mem a ((v.extractLsb' 0 8).setWidth 16) := by simp only [transmit]; split <;> rfl
@[simp] theorem transmit_rxq (a : Addr) (v : Word) (s : State) : (transmit a v s).rxq = s.rxq := by simp only [transmit]; split <;> rfl
@[simp] theorem transmit_fault (a : Addr) (v : Word) (s : State) : (transmit a v s).fault = s.fault := by simp only [transmit]; split <;> rfl
@[simp] theorem transmit_awaitingSpace (a : Addr) (v : Word) (s : State) : (transmit a v s).awaitingSpace = s.awaitingSpace := by simp only [transmit]; split <;> rfl

/-! `memWriteState` -/

@[simp] theorem memWriteState_params (a : Addr) (v : Word) (s : State) : (memWriteState a v s).params = s.params := by
  unfold memWriteState; (repeat' split) <;> simp
@[simp] theorem memWriteState_regs (a : Addr) (v : Word) (s : State) : (memWriteState a v s).regs = s.regs := by
  unfold memWriteState; (repeat' split) <;> simp
@[simp] theorem memWriteState_mar (a : Addr) (v : Word) (s : State) : (memWriteState a v s).mar = s.mar := by
  unfold memWriteState; (repeat' split) <;> simp
@[simp] theorem memWriteState_mbr (a : Addr) (v : Word) (s : State) : (memWriteState a v s).mbr = s.mbr := by
  unfold memWriteState; (repeat' split) <;> simp
@[simp] theorem memWriteState_stgA (a : Addr) (v : Word) (s : State) : (memWriteState a v s).stgA = s.stgA := by
  unfold memWriteState; (repeat' split) <;> simp
@[simp] theorem memWriteState_stgB (a : Addr) (v : Word) (s : State) : (memWriteState a v s).stgB = s.stgB := by
  unfold memWriteState; (repeat' split) <;> simp
@[simp] theorem memWriteState_mpc (a : Addr) (v : Word) (s : State) : (memWriteState a v s).mpc = s.mpc := by
  unfold memWriteState; (repeat' split) <;> simp
@[simp] theorem memWriteState_cycles (a : Addr) (v : Word) (s : State) : (memWriteState a v s).cycles = s.cycles := by
  unfold memWriteState; (repeat' split) <;> simp
@[simp] theorem memWriteState_runState (a : Addr) (v : Word) (s : State) : (memWriteState a v s).runState = s.runState := by
  unfold memWriteState; (repeat' split) <;> simp
@[simp] theorem memWriteState_desired (a : Addr) (v : Word) (s : State) : (memWriteState a v s).desired = s.desired := by
  unfold memWriteState; (repeat' split) <;> simp
@[simp] theorem memWriteState_cs (a : Addr) (v : Word) (s : State) : (memWriteState a v s).cs = s.cs := by
  unfold memWriteState; (repeat' split) <;> simp
@[simp] theorem memWriteState_rxq (a : Addr) (v : Word) (s : State) : (memWriteState a v s).rxq = s.rxq := by
  unfold memWriteState; (repeat' split) <;> simp
@[simp] theorem memWriteState_fault (a : Addr) (v : Word) (s : State) : (memWriteState a v s).fault = s.fault := by
  unfold memWriteState; (repeat' split) <;> simp
@[simp] theorem memWriteState_awaitingSpace (a : Addr) (v : Word) (s : State) : (memWriteState a v s).awaitingSpace = s.awaitingSpace := by
  unfold memWriteState; (repeat' split) <;> simp

/-! `setDesired` -/

@[simp] theorem setDesired_params (v : RunState) (s : State) : (setDesired v s).params = s.params := rfl
@[simp] theorem setDesired_regs (v : RunState) (s : State) : (setDesired v s).regs = s.regs := rfl
@[simp] theorem setDesired_mar (v : RunState) (s : State) : (setDesired v s).mar = s.mar := rfl
@[simp] theorem setDesired_mbr (v : RunState) (s : State) : (setDesired v s).mbr = s.mbr := rfl
@[simp] theorem setDesired_stgA (v : RunState) (s : State) : (setDesired v s).stgA = s.stgA := rfl
@[simp] theorem setDesired_stgB (v : RunState) (s : State) : (setDesired v s).stgB = s.stgB := rfl
@[simp] theorem setDesired_mpc (v : RunState) (s : State) : (setDesired v s).mpc = s.mpc := rfl
@[simp] theorem setDesired_cycles (v : RunState) (s : State) : (setDesired v s).cycles = s.cycles := rfl
@[simp] theorem setDesired_runState (v : RunState) (s : State) : (setDesired v s).runState = s.runState := rfl
@[simp] theorem setDesired_desired (v : RunState) (s : State) : (setDesired v s).desired = v := rfl
@[simp] theorem setDesired_rxs (v : RunState) (s : State) : (setDesired v s).rxs = s.rxs := rfl
@[simp] theorem setDesired_txs (v : RunState) (s : State) : (setDesired v s).txs = s.txs := rfl
@[simp] theorem setDesired_cs (v : RunState) (s : State) : (setDesired v s).cs = s.cs := rfl
@[simp] theorem setDesired_mem (v : RunState) (s : State) : (setDesired v s).mem = s.mem := rfl
@[simp] theorem setDesired_rxq (v : RunState) (s : State) : (setDesired v s).rxq = s.rxq := rfl
@[simp] theorem setDesired_txq (v : RunState) (s : State) : (setDesired v s).txq = s.txq := rfl
@[simp] theorem setDesired_fault (v : RunState) (s : State) : (setDesired v s).fault = s.fault := rfl
@[simp] theorem setDesired_awaitingSpace (v : RunState) (s : State) : (setDesired v s).awaitingSpace = s.awaitingSpace := rfl

/-! `zeroMemory` -/

@[simp] theorem zeroMemory_params (s : State) : (zeroMemory s).params = s.params := rfl
@[simp] theorem zeroMemory_regs (s : State) : (zeroMemory s).regs = s.regs := rfl
@[simp] theorem zeroMemory_mar (s : State) : (zeroMemory s).mar = s.mar := rfl
@[simp] theorem zeroMemory_mbr (s : State) : (zeroMemory s).mbr = s.mbr := rfl
@[simp] theorem zeroMemory_stgA (s : State) : (zeroMemory s).stgA = s.stgA := rfl
@[simp] theorem zeroMemory_stgB (s : State) : (zeroMemory s).stgB = s.stgB := rfl
@[simp] theorem zeroMemory_mpc (s : State) : (zeroMemory s).mpc = s.mpc := rfl
@[simp] theorem zeroMemory_cycles (s : State) : (zeroMemory s).cycles = s.cycles := rfl
@[simp] theorem zeroMemory_runState (s : State) : (zeroMemory s).runState = s.runState := rfl
@[simp] theorem zeroMemory_desired (s : State) : (zeroMemory s).desired = s.desired := rfl
@[simp] theorem zeroMemory_rxs (s : State) : (zeroMemory s).rxs = s.rxs := rfl
@[simp] theorem zeroMemory_txs (s : State) : (zeroMemory s).txs = s.txs := rfl
@[simp] theorem zeroMemory_cs (s : State) : (zeroMemory s).cs = s.cs := rfl
@[simp] theorem zeroMemory_mem (s : State) : (zeroMemory s).mem = [] := rfl
@[simp] theorem zeroMemory_rxq (s : State) : (zeroMemory s).rxq = s.rxq := rfl
@[simp] theorem zeroMemory_txq (s : State) : (zeroMemory s).txq = s.txq := rfl
@[simp] theorem zeroMemory_fault (s : State) : (zeroMemory s).fault = s.fault := rfl
@[simp] theorem zeroMemory_awaitingSpace (s : State) : (zeroMemory s).awaitingSpace = s.awaitingSpace := rfl

/-! `zeroControlStore` -/

@[simp] theorem zeroControlStore_params (s : State) : (zeroControlStore s).params = s.params := rfl
@[simp] theorem zeroControlStore_regs (s : State) : (zeroControlStore s).regs = s.regs := rfl
@[simp] theorem zeroControlStore_mar (s : State) : (zeroControlStore s).mar = s.mar := rfl
@[simp] theorem zeroControlStore_mbr (s : State) : (zeroControlStore s).mbr = s.mbr := rfl
@[simp] theorem zeroControlStore_stgA (s : State) : (zeroControlStore s).stgA = s.stgA := rfl
@[simp] theorem zeroControlStore_stgB (s : State) : (zeroControlStore s).stgB = s.stgB := rfl
@[simp] theorem zeroControlStore_mpc (s : State) : (zeroControlStore s).mpc = s.mpc := rfl
@[simp] theorem zeroControlStore_cycles (s : State) : (zeroControlStore s).cycles = s.cycles := rfl
@[simp] theorem zeroControlStore_runState (s : State) : (zeroControlStore s).runState = s.runState := rfl
@[simp] theorem zeroControlStore_desired (s : State) : (zeroControlStore s).desired = s.desired := rfl
@[simp] theorem zeroControlStore_rxs (s : State) : (zeroControlStore s).rxs = s.rxs := rfl
@[simp] theorem zeroControlStore_txs (s : State) : (zeroControlStore s).txs = s.txs := rfl
@[simp] theorem zeroControlStore_cs (s : State) : (zeroControlStore s).cs = [] := rfl
@[simp] theorem zeroControlStore_mem (s : State) : (zeroControlStore s).mem = s.mem := rfl
@[simp] theorem zeroControlStore_rxq (s : State) : (zeroControlStore s).rxq = s.rxq := rfl
@[simp] theorem zeroControlStore_txq (s : State) : (zeroControlStore s).txq = s.txq := rfl
@[simp] theorem zeroControlStore_fault (s : State) : (zeroControlStore s).fault = s.fault := rfl
@[simp] theorem zeroControlStore_awaitingSpace (s : State) : (zeroControlStore s).awaitingSpace = s.awaitingSpace := rfl

/-! `resetEngine` -/

@[simp] theorem resetEngine_params (s : State) : (resetEngine s).params = s.params := rfl
@[simp] theorem resetEngine_mar (s : State) : (resetEngine s).mar = resetUnlistedValue s.params s.mar := rfl
@[simp] theorem resetEngine_mbr (s : State) : (resetEngine s).mbr = 0 := rfl
@[simp] theorem resetEngine_stgA (s : State) : (resetEngine s).stgA = none := rfl
@[simp] theorem resetEngine_stgB (s : State) : (resetEngine s).stgB = none := rfl
@[simp] theorem resetEngine_mpc (s : State) : (resetEngine s).mpc = 0 := rfl
@[simp] theorem resetEngine_cycles (s : State) : (resetEngine s).cycles = 0 := rfl
@[simp] theorem resetEngine_runState (s : State) : (resetEngine s).runState = s.runState := rfl
@[simp] theorem resetEngine_desired (s : State) : (resetEngine s).desired = .halt := rfl
@[simp] theorem resetEngine_rxs (s : State) : (resetEngine s).rxs = resetUnlistedValue s.params s.rxs := rfl
@[simp] theorem resetEngine_txs (s : State) : (resetEngine s).txs = resetUnlistedValue s.params s.txs := rfl
@[simp] theorem resetEngine_cs (s : State) : (resetEngine s).cs = s.cs := rfl
@[simp] theorem resetEngine_mem (s : State) : (resetEngine s).mem = s.mem := rfl
@[simp] theorem resetEngine_rxq (s : State) : (resetEngine s).rxq = s.rxq := rfl
@[simp] theorem resetEngine_txq (s : State) : (resetEngine s).txq = s.txq := rfl
@[simp] theorem resetEngine_fault (s : State) : (resetEngine s).fault = none := rfl
@[simp] theorem resetEngine_awaitingSpace (s : State) : (resetEngine s).awaitingSpace = s.awaitingSpace := rfl

/-! `withControlWord` -/

@[simp] theorem withControlWord_params (s : State) (w : ControlWord) : (s.withControlWord w).params = s.params := rfl
@[simp] theorem withControlWord_regs (s : State) (w : ControlWord) : (s.withControlWord w).regs = s.regs := rfl
@[simp] theorem withControlWord_mar (s : State) (w : ControlWord) : (s.withControlWord w).mar = s.mar := rfl
@[simp] theorem withControlWord_mbr (s : State) (w : ControlWord) : (s.withControlWord w).mbr = s.mbr := rfl
@[simp] theorem withControlWord_stgA (s : State) (w : ControlWord) : (s.withControlWord w).stgA = s.stgA := rfl
@[simp] theorem withControlWord_stgB (s : State) (w : ControlWord) : (s.withControlWord w).stgB = s.stgB := rfl
@[simp] theorem withControlWord_mpc (s : State) (w : ControlWord) : (s.withControlWord w).mpc = s.mpc := rfl
@[simp] theorem withControlWord_cycles (s : State) (w : ControlWord) : (s.withControlWord w).cycles = s.cycles := rfl
@[simp] theorem withControlWord_runState (s : State) (w : ControlWord) : (s.withControlWord w).runState = s.runState := rfl
@[simp] theorem withControlWord_desired (s : State) (w : ControlWord) : (s.withControlWord w).desired = s.desired := rfl
@[simp] theorem withControlWord_rxs (s : State) (w : ControlWord) : (s.withControlWord w).rxs = s.rxs := rfl
@[simp] theorem withControlWord_txs (s : State) (w : ControlWord) : (s.withControlWord w).txs = s.txs := rfl
@[simp] theorem withControlWord_cs (s : State) (w : ControlWord) : (s.withControlWord w).cs = ControlStore.define s.cs s.mpc (freshSlot w) := rfl
@[simp] theorem withControlWord_mem (s : State) (w : ControlWord) : (s.withControlWord w).mem = s.mem := rfl
@[simp] theorem withControlWord_rxq (s : State) (w : ControlWord) : (s.withControlWord w).rxq = s.rxq := rfl
@[simp] theorem withControlWord_txq (s : State) (w : ControlWord) : (s.withControlWord w).txq = s.txq := rfl
@[simp] theorem withControlWord_fault (s : State) (w : ControlWord) : (s.withControlWord w).fault = none := rfl
@[simp] theorem withControlWord_awaitingSpace (s : State) (w : ControlWord) : (s.withControlWord w).awaitingSpace = s.awaitingSpace := rfl

end Sys2Proof.Machine
end

