-- ==== Sys2Proof/Laws/Store.lean ====
section
/-! SUPPORT. The laws of the canonical lists that hold data memory and the control store. -/

namespace Sys2Proof.Machine

variable {α : Type}

theorem lookup_put_some (k : Nat) (x : α) (l : List (Nat × α)) : lookup k (put k (some x) l) = some x := by
  induction l with
  | nil => simp [put, lookup]
  | cons e rest ih =>
    obtain ⟨j, y⟩ := e
    simp only [put]
    split
    · simp [lookup]
    · split
      · simp [lookup]
      · have : j ≠ k := by omega
        simp [lookup, this, ih]

theorem lookup_put_other {k j : Nat} (h : j ≠ k) (v : Option α) (l : List (Nat × α)) :
    lookup j (put k v l) = lookup j l := by
  induction l with
  | nil => cases v <;> simp [put, lookup, h.symm]
  | cons e rest ih =>
    obtain ⟨i, y⟩ := e
    simp only [put]
    split
    · cases v <;> simp [lookup, h.symm]
    · split
      · cases v with
        | none =>
          have : i ≠ j := by omega
          simp [lookup, this]
        | some x =>
          have : i ≠ j := by omega
          simp [lookup, this, h.symm]
      · simp [lookup, ih]

/-- A key below the first one is absent. -/
theorem lookup_below {lo bound k : Nat} {l : List (Nat × α)} (h : risingFrom lo bound l = true) (hk : k < lo) :
    lookup k l = none := by
  induction l generalizing lo with
  | nil => rfl
  | cons e rest ih =>
    obtain ⟨j, y⟩ := e
    simp only [risingFrom, Bool.and_eq_true, decide_eq_true_eq] at h
    have : j ≠ k := by omega
    simp [lookup, this, ih h.2 (by omega)]

theorem lookup_put_none {lo bound : Nat} (k : Nat) {l : List (Nat × α)} (h : risingFrom lo bound l = true) :
    lookup k (put k none l) = none := by
  induction l generalizing lo with
  | nil => rfl
  | cons e rest ih =>
    obtain ⟨j, y⟩ := e
    simp only [risingFrom, Bool.and_eq_true, decide_eq_true_eq] at h
    simp only [put]
    split
    · have : j ≠ k := by omega
      simp [lookup, this, lookup_below h.2 (show k < j + 1 by omega)]
    · split
      · exact lookup_below h.2 (by omega)
      · have : j ≠ k := by omega
        simp [lookup, this, ih h.2]

theorem lookup_put_self {lo bound : Nat} (k : Nat) (v : Option α) {l : List (Nat × α)}
    (h : risingFrom lo bound l = true) : lookup k (put k v l) = v := by
  cases v with
  | none => exact lookup_put_none k h
  | some x => exact lookup_put_some k x l

theorem risingFrom_weaken {lo lo' bound : Nat} {l : List (Nat × α)} (h : risingFrom lo bound l = true) (hl : lo' ≤ lo) :
    risingFrom lo' bound l = true := by
  cases l with
  | nil => rfl
  | cons e rest =>
    obtain ⟨j, y⟩ := e
    simp only [risingFrom, Bool.and_eq_true, decide_eq_true_eq] at h ⊢
    exact ⟨⟨by omega, h.1.2⟩, h.2⟩

theorem risingFrom_put {lo bound k : Nat} (v : Option α) {l : List (Nat × α)} (h : risingFrom lo bound l = true)
    (hlo : lo ≤ k) (hk : k < bound) : risingFrom lo bound (put k v l) = true := by
  induction l generalizing lo with
  | nil => cases v <;> simp [put, risingFrom, hlo, hk]
  | cons e rest ih =>
    obtain ⟨j, y⟩ := e
    have h0 := h
    simp only [risingFrom, Bool.and_eq_true, decide_eq_true_eq] at h
    simp only [put]
    split
    · cases v with
      | none => exact h0
      | some x =>
        simp only [risingFrom, Bool.and_eq_true, decide_eq_true_eq]
        exact ⟨⟨hlo, hk⟩, ⟨by omega, h.1.2⟩, h.2⟩
    · split
      · rename_i hkj
        subst hkj
        cases v with
        | none => exact risingFrom_weaken h.2 (by omega)
        | some x =>
          simp only [risingFrom, Bool.and_eq_true, decide_eq_true_eq]
          exact h
      · simp only [risingFrom, Bool.and_eq_true, decide_eq_true_eq]
        exact ⟨h.1, ih h.2 (by omega)⟩

theorem all_put {k : Nat} {v : Option α} {q : Nat × α → Bool} {l : List (Nat × α)} (h : l.all q = true)
    (hv : ∀ x, v = some x → q (k, x) = true) : (put k v l).all q = true := by
  induction l with
  | nil =>
    cases v with
    | none => rfl
    | some x => simpa [put] using hv x rfl
  | cons e rest ih =>
    obtain ⟨j, y⟩ := e
    have h0 := h
    simp only [List.all_cons, Bool.and_eq_true] at h
    simp only [put]
    split
    · cases v with
      | none => exact h0
      | some x =>
        simp only [List.all_cons, Bool.and_eq_true]
        exact ⟨hv x rfl, h⟩
    · split
      · cases v with
        | none => exact h.2
        | some x =>
          simp only [List.all_cons, Bool.and_eq_true]
          exact ⟨hv x rfl, h.2⟩
      · simp only [List.all_cons, Bool.and_eq_true]
        exact ⟨h.1, ih h.2⟩

/-- The canonical form is kept by an update below the bound whose new entry is not 0. -/
theorem Memory.wf_put {k : Nat} {v : Option Word} {m : Memory} (h : Memory.wf m = true) (hk : k < 4096)
    (hv : v ≠ some 0) : Memory.wf (put k v m) = true := by
  simp only [Memory.wf, Bool.and_eq_true] at h ⊢
  refine ⟨risingFrom_put v h.1 (Nat.zero_le _) hk, all_put h.2 fun x hx => ?_⟩
  subst hx
  simpa using hv

theorem Memory.wf_write {m : Memory} (h : Memory.wf m = true) (a : Addr) (v : Word) :
    Memory.wf (Memory.write m a v) = true :=
  Memory.wf_put h a.isLt (by split <;> simp_all)

theorem Memory.wf_nil : Memory.wf [] = true := rfl

/-- Reading the cell a store went to. -/
theorem Memory.read_write_same {m : Memory} (h : Memory.wf m = true) (a : Addr) (v : Word) :
    Memory.read (Memory.write m a v) a = v := by
  simp only [Memory.wf, Bool.and_eq_true] at h
  rw [Memory.read, Memory.write, lookup_put_self _ _ h.1]
  split <;> simp_all

/-- A store leaves every other cell alone. -/
theorem Memory.read_write_other {a b : Addr} (h : b ≠ a) (m : Memory) (v : Word) :
    Memory.read (Memory.write m a v) b = Memory.read m b := by
  rw [Memory.read, Memory.write, lookup_put_other fun hn => h (BitVec.eq_of_toNat_eq hn), Memory.read]

theorem ControlStore.wf_nil : ControlStore.wf [] = true := rfl

theorem ControlStore.wf_define {cs : ControlStore} (h : ControlStore.wf cs = true) (m : MicroAddr) (slot : Slot) :
    ControlStore.wf (ControlStore.define cs m slot) = true :=
  risingFrom_put _ h (Nat.zero_le _) m.isLt

theorem ControlStore.slot_define_same (cs : ControlStore) (m : MicroAddr) (slot : Slot) :
    ControlStore.slot (ControlStore.define cs m slot) m = some slot :=
  lookup_put_some _ _ _

theorem ControlStore.slot_define_other {m n : MicroAddr} (h : n ≠ m) (cs : ControlStore) (slot : Slot) :
    ControlStore.slot (ControlStore.define cs m slot) n = ControlStore.slot cs n :=
  lookup_put_other (fun hn => h (BitVec.eq_of_toNat_eq hn)) _ _

/-- Installing words keeps the control store canonical. -/
theorem ControlStore.wf_installWords {ws : List ControlWord} {k : Nat} {cs : ControlStore}
    (h : ControlStore.wf cs = true) (hk : k + ws.length ≤ 256) : ControlStore.wf (installWords k ws cs) = true := by
  induction ws generalizing k cs with
  | nil => exact h
  | cons w ws ih =>
    simp only [List.length_cons] at hk
    exact ih (risingFrom_put _ h (Nat.zero_le _) (by omega)) (by omega)

/-- Installing cells keeps memory canonical. -/
theorem Memory.wf_installCells {ws : List Word} {k : Nat} {m : Memory} (h : Memory.wf m = true)
    (hk : k + ws.length ≤ 4096) : Memory.wf (installCells k ws m) = true := by
  induction ws generalizing k m with
  | nil => exact h
  | cons w ws ih =>
    simp only [List.length_cons] at hk
    exact ih (Memory.wf_put h (by omega) (by split <;> simp_all)) (by omega)

/-- The slots after an installation: the words' positions hold fresh slots, the others are as before. -/
theorem lookup_installWords (ws : List ControlWord) (k n : Nat) (cs : ControlStore) :
    lookup n (installWords k ws cs) =
      if h : k ≤ n ∧ n < k + ws.length then some (freshSlot (ws[n - k]'(by omega))) else lookup n cs := by
  induction ws generalizing k cs with
  | nil =>
    have : ¬ (k ≤ n ∧ n < k + ([] : List ControlWord).length) := by simp
    rw [dif_neg this]; rfl
  | cons w ws ih =>
    rw [installWords, ih]
    by_cases hn : n = k
    · subst hn
      simp [lookup_put_some]
    · rw [lookup_put_other hn]
      by_cases h : k + 1 ≤ n ∧ n < k + 1 + ws.length
      · rw [dif_pos h, dif_pos (by simp only [List.length_cons]; omega)]
        have : n - k = n - (k + 1) + 1 := by omega
        simp [this]
      · rw [dif_neg h, dif_neg (by simp only [List.length_cons]; omega)]

/-- The cells after an installation into a canonical memory. -/
theorem lookup_installCells {ws : List Word} {k n : Nat} {m : Memory} (hm : Memory.wf m = true)
    (hk : k + ws.length ≤ 4096) :
    (lookup n (installCells k ws m)).getD 0 =
      if h : k ≤ n ∧ n < k + ws.length then ws[n - k]'(by omega) else (lookup n m).getD 0 := by
  induction ws generalizing k m with
  | nil =>
    have : ¬ (k ≤ n ∧ n < k + ([] : List Word).length) := by simp
    rw [dif_neg this]; rfl
  | cons w ws ih =>
    simp only [List.length_cons] at hk
    have hm' : Memory.wf (put k (if w = 0 then none else some w) m) = true :=
      Memory.wf_put hm (by omega) (by split <;> simp_all)
    rw [installCells, ih hm' (by omega)]
    by_cases hn : n = k
    · subst hn
      simp only [Memory.wf, Bool.and_eq_true] at hm
      rw [dif_neg (by omega), dif_pos (by simp), lookup_put_self _ _ hm.1]
      split <;> simp_all
    · rw [lookup_put_other hn]
      by_cases h : k + 1 ≤ n ∧ n < k + 1 + ws.length
      · rw [dif_pos h, dif_pos (by simp only [List.length_cons]; omega)]
        have : n - k = n - (k + 1) + 1 := by omega
        simp [this]
      · rw [dif_neg h, dif_neg (by simp only [List.length_cons]; omega)]

end Sys2Proof.Machine
end

