-- ==== Sys2Proof/Laws/Ops.lean ====
section
/-! SUPPORT. What each shared operation does: registers, cells, status bits, device access and the poll. -/

namespace Sys2Proof.Machine

/-! ## Registers and cells -/

theorem readReg_setReg (s : State) (i j : RegIx) (v : Word) :
    (s.setReg i v).readReg j = if j = i then v else s.readReg j := by
  have hj := j.isLt
  have hij : (i.toNat = j.toNat) ↔ j = i := ⟨fun h => BitVec.eq_of_toNat_eq h.symm, fun h => by rw [h]⟩
  simp only [State.readReg, setReg_regs, Vector.get_eq_getElem, Vector.getElem_set, BitVec.val_toFin, hij]

/-- Reading a register looks at the register file only. -/
theorem readReg_congr {s t : State} (h : t.regs = s.regs) (i : RegIx) : t.readReg i = s.readReg i := by
  simp only [State.readReg, h]

theorem isConstantReg_congr {s t : State} (h : t.params = s.params) (i : RegIx) :
    t.isConstantReg i = s.isConstantReg i := by
  simp only [State.isConstantReg, h]

theorem isConstantReg_iff (s : State) (i : RegIx) :
    s.isConstantReg i = true ↔ i ∈ s.params.regIndex.constants := by
  simp only [State.isConstantReg, decide_eq_true_eq]

theorem writesRegister_iff (m : MicroInstr) (s : State) (i : RegIx) :
    writesRegister m s i = true ↔ m.enc = true ∧ i = m.c ∧ i ∉ s.params.regIndex.constants := by
  simp [writesRegister, State.isConstantReg, and_assoc]

/-- Reading a cell looks at memory only. -/
theorem cell_congr {s t : State} (h : t.mem = s.mem) (a : Addr) : t.cell a = s.cell a := by
  simp only [State.cell, h]

theorem cell_storeCell_same {s : State} (h : Memory.wf s.mem = true) (a : Addr) (v : Word) :
    (s.storeCell a v).cell a = v :=
  Memory.read_write_same h a v

theorem cell_storeCell_other {a b : Addr} (h : b ≠ a) (s : State) (v : Word) :
    (s.storeCell a v).cell b = s.cell b :=
  Memory.read_write_other h s.mem v

/-! ## Status words -/

/-- A bit of a word with one bit set. -/
theorem getLsbD_oneBit (n m : Fin 16) : ((1#16 <<< n.val : Word)).getLsbD m.val = decide (m = n) := by
  revert n m; decide

theorem enable_rxPending (p : Params) : (rxPending p).getLsbD p.enableBit.val = true := by
  simp only [rxPending, getLsbD_oneBit, decide_true]

theorem ready_rxPending {p : Params} (h : p.enableBit ≠ p.readyBit) :
    (rxPending p).getLsbD p.readyBit.val = false := by
  simp only [rxPending, getLsbD_oneBit, decide_eq_false h.symm]

theorem enable_readyVal (p : Params) : (readyVal p).getLsbD p.enableBit.val = true := by
  simp only [readyVal, BitVec.getLsbD_or, getLsbD_oneBit, decide_true, Bool.true_or]

theorem ready_readyVal (p : Params) : (readyVal p).getLsbD p.readyBit.val = true := by
  simp only [readyVal, BitVec.getLsbD_or, getLsbD_oneBit, decide_true, Bool.or_true]

/-- Clearing READY in "data ready" leaves "enabled, pending". -/
theorem clearReady_readyVal {p : Params} (h : p.enableBit ≠ p.readyBit) :
    readyVal p &&& ~~~(1#16 <<< p.readyBit.val) = rxPending p := by
  unfold readyVal rxPending
  revert h
  generalize p.enableBit = e
  generalize p.readyBit = r
  revert e r
  decide

/-! ## Register write -/

/-- What a register write does (40_datapath.md R144, R145). -/
theorem writeReg_spec (c : RegIx) (v : Word) (s : State) :
    writeReg c v s =
      if s.isConstantReg c then
        (if s.params.constWritePolicy = .fault then .raised .constantWrite else .done s)
      else .done (s.setReg c v) := by
  unfold writeReg
  split
  · cases h : s.params.constWritePolicy <;> simp
  · rfl

/-! ## The poll -/

theorem receivePoll_idle {s : State} (h : pollTakes s = false) : receivePoll s = s := by
  unfold receivePoll
  cases hq : s.rxq with
  | nil => simp
  | cons b rest => simp_all [pollTakes]

theorem receivePoll_takes {s : State} {b : Byte} {rest : List Byte} (h : pollTakes s = true) (hq : s.rxq = b :: rest) :
    receivePoll s =
      { s with rxq := rest, mem := Memory.write s.mem s.params.rxDataAddr (b.setWidth 16), rxs := readyVal s.params } := by
  simp_all [receivePoll, pollTakes]

theorem pollTakes_congr {s t : State} (hr : t.rxs = s.rxs) (hq : t.rxq = s.rxq) (hp : t.params = s.params) :
    pollTakes t = pollTakes s := by
  simp only [pollTakes, State.rxEnabled, State.rxReady, hr, hq, hp]

/-- The poll changes no cell but the receiver data cell, and that one only when it takes a byte. -/
theorem cell_receivePoll {s : State} {a : Addr} (h : a ≠ s.params.rxDataAddr ∨ pollTakes s = false) :
    (receivePoll s).cell a = s.cell a := by
  by_cases hp : pollTakes s = true
  · have ha : a ≠ s.params.rxDataAddr := by simpa [hp] using h
    cases hq : s.rxq with
    | nil => simp [pollTakes, hq] at hp
    | cons b rest =>
      rw [receivePoll_takes hp hq]
      exact Memory.read_write_other ha s.mem _
  · rw [receivePoll_idle (by simpa using hp)]

/-! ## The end of a Step -/

@[simp] theorem pollTakes_breakpointCheck (s : State) : pollTakes (breakpointCheck s) = pollTakes s :=
  pollTakes_congr (by simp) (by simp) (by simp)

@[simp] theorem pollTakes_countCycle (s : State) : pollTakes (countCycle s) = pollTakes s := rfl

theorem cell_endOfStep {s : State} {a : Addr} (h : a ≠ s.params.rxDataAddr ∨ pollTakes s = false) :
    (endOfStep s).cell a = s.cell a := by
  rw [endOfStep, cell_receivePoll (by simpa using h)]
  exact cell_congr (by simp) a

theorem endOfStep_rxs (s : State) : (endOfStep s).rxs = if pollTakes s then readyVal s.params else s.rxs := by
  by_cases hp : pollTakes s = true
  · cases hq : s.rxq with
    | nil => simp [pollTakes, hq] at hp
    | cons b rest =>
      have := receivePoll_takes (s := breakpointCheck (countCycle s)) (b := b) (rest := rest) (by simpa using hp)
        (by simpa using hq)
      simp [endOfStep, this, hp]
  · rw [endOfStep, receivePoll_idle (by simpa using hp)]
    simp [hp]

theorem endOfStep_rxq (s : State) : (endOfStep s).rxq = if pollTakes s then s.rxq.tail else s.rxq := by
  by_cases hp : pollTakes s = true
  · cases hq : s.rxq with
    | nil => simp [pollTakes, hq] at hp
    | cons b rest =>
      have := receivePoll_takes (s := breakpointCheck (countCycle s)) (b := b) (rest := rest) (by simpa using hp)
        (by simpa using hq)
      simp [endOfStep, this, hp]
  · rw [endOfStep, receivePoll_idle (by simpa using hp)]
    simp [hp]

/-- The byte the poll takes lands in the receiver data cell. -/
theorem cell_endOfStep_taken {s : State} {b : Byte} {rest : List Byte} (h : pollTakes s = true) (hq : s.rxq = b :: rest)
    (hm : Memory.wf s.mem = true) : (endOfStep s).cell s.params.rxDataAddr = b.setWidth 16 := by
  have := receivePoll_takes (s := breakpointCheck (countCycle s)) (b := b) (rest := rest) (by simpa using h)
    (by simpa using hq)
  rw [endOfStep, this]
  simp only [State.cell, breakpointCheck_params, breakpointCheck_mem, countCycle_params, countCycle_mem]
  exact Memory.read_write_same hm _ _

theorem wf_mem_endOfStep {s : State} (hm : Memory.wf s.mem = true) : Memory.wf (endOfStep s).mem = true := by
  by_cases hp : pollTakes s = true
  · cases hq : s.rxq with
    | nil => simp [pollTakes, hq] at hp
    | cons b rest =>
      have := receivePoll_takes (s := breakpointCheck (countCycle s)) (b := b) (rest := rest) (by simpa using hp)
        (by simpa using hq)
      rw [endOfStep, this]
      simpa using Memory.wf_write hm _ _
  · rw [endOfStep, receivePoll_idle (by simpa using hp)]
    simpa using hm

/-! ## Device access -/

theorem memReadValue_congr {s t : State} (hm : t.mem = s.mem) (hr : t.rxs = s.rxs) (ht : t.txs = s.txs)
    (hp : t.params = s.params) (a : Addr) : memReadValue a t = memReadValue a s := by
  simp only [memReadValue, cell_congr hm, hr, ht, hp]

theorem transmitBlocked_congr {s t : State} (hx : t.txs = s.txs) (hq : t.txq = s.txq) (hp : t.params = s.params)
    (a : Addr) : t.transmitBlocked a = s.transmitBlocked a := by
  simp only [State.transmitBlocked, State.txEnabled, hx, hq, hp]

/-- A store to a plain address replaces that cell and nothing else. -/
theorem memWriteState_plain {s : State} {a : Addr} (h : a ∉ s.params.deviceAddrs) (v : Word) :
    memWriteState a v s = s.storeCell a v := by
  simp only [Params.deviceAddrs, List.mem_cons, List.not_mem_nil, or_false, not_or] at h
  simp [memWriteState, h]

/-- A store changes no cell but the one it goes to. -/
theorem cell_memWriteState_other {a b : Addr} (h : b ≠ a) (v : Word) (s : State) :
    (memWriteState a v s).cell b = s.cell b := by
  unfold memWriteState
  split
  · split <;> rfl
  · split
    · cases s.params.txStatusRead with
      | live => exact cell_congr (by dsimp only; split <;> rfl) b
      | backing =>
        refine (cell_storeCell_other h _ v).trans (cell_congr ?_ b)
        split <;> rfl
    · split
      · simp only [transmit]
        split
        · exact Memory.read_write_other h s.mem _
        · exact Memory.read_write_other h s.mem _
      · exact cell_storeCell_other h s v

theorem wf_mem_memWriteState {s : State} (h : Memory.wf s.mem = true) (a : Addr) (v : Word) :
    Memory.wf (memWriteState a v s).mem = true := by
  unfold memWriteState
  split
  · split <;> exact h
  · split
    · cases s.params.txStatusRead with
      | live =>
        dsimp only
        split <;> exact h
      | backing =>
        refine Memory.wf_write ?_ a v
        split <;> exact h
    · split
      · simp only [transmit]
        split <;> exact Memory.wf_write h _ _
      · exact Memory.wf_write h _ _

/-- A store sets RXS only by the enable code at the receiver status address. -/
theorem memWriteState_rxs (a : Addr) (v : Word) (s : State) :
    (memWriteState a v s).rxs =
      if a = s.params.rxStatusAddr ∧ v = s.params.enableCode then rxPending s.params else s.rxs := by
  by_cases ha : a = s.params.rxStatusAddr
  · simp only [memWriteState, ha, if_true, true_and]
    split <;> rfl
  · simp only [memWriteState, ha, if_false, false_and]
    split
    · cases s.params.txStatusRead <;> (dsimp only; split <;> rfl)
    · split
      · simp
      · rfl

/-- A store leaves TXS, or sets it to "ready". -/
theorem memWriteState_txs (a : Addr) (v : Word) (s : State) :
    (memWriteState a v s).txs = s.txs ∨ (memWriteState a v s).txs = readyVal s.params := by
  unfold memWriteState
  split
  · split <;> exact Or.inl rfl
  · split
    · cases s.params.txStatusRead <;> (dsimp only; split <;> first | exact Or.inl rfl | exact Or.inr rfl)
    · split
      · simp only [transmit]
        split
        · exact Or.inr rfl
        · exact Or.inl rfl
      · exact Or.inl rfl

/-- A store that is not held leaves room in TXQ. -/
theorem memWriteState_txq_bounded {a : Addr} {s : State} (v : Word) (h : s.transmitBlocked a = false)
    (hq : s.txq.length ≤ s.params.txqCap) : (memWriteState a v s).txq.length ≤ s.params.txqCap := by
  unfold memWriteState
  split
  · split <;> exact hq
  · split
    · cases s.params.txStatusRead <;> (dsimp only; split <;> exact hq)
    · split
      · rename_i h1 h2 h3
        simp only [transmit]
        split
        · rename_i he
          have he' : s.txEnabled = true := he
          have : s.txq.length ≠ s.params.txqCap := by
            intro hc
            simp [State.transmitBlocked, h1, h2, ← h3, he', hc] at h
          simp only [List.length_append, List.length_cons, List.length_nil, storeCell_txq]
          omega
        · exact hq
      · exact hq

/-! ## The bus protocol -/

theorem readCycle_first {s : State} (h : s.stgA = none) : readCycle s = { s with stgA := some s.busAddress } := by
  simp only [readCycle, h]

theorem readCycle_second {s : State} {a : Addr} (h : s.stgA = some a) :
    readCycle s = { memReadEffect a s with mbr := memReadValue a s, stgA := none } := by
  simp only [readCycle, h]

theorem writeCycle_first {s : State} (h : s.stgA = none) :
    writeCycle s = .done { s with stgA := some s.busAddress, stgB := some s.mbr } := by
  simp only [writeCycle, h]

theorem writeCycle_stale {s : State} {a : Addr} (h : s.stgA = some a) (hb : s.stgB = none) :
    writeCycle s = .raised .staleWriteStaging := by
  simp only [writeCycle, h, hb]

theorem writeCycle_second {s : State} {a : Addr} {v : Word} (h : s.stgA = some a) (hb : s.stgB = some v) :
    writeCycle s =
      if s.transmitBlocked a then .held else .done { memWriteState a v s with stgA := none } := by
  simp only [writeCycle, h, hb, memWrite]
  split <;> rfl

/-! ## The halt -/

theorem rdWrHalt_afterSequencing {t : State} (h : t.params.rdwrHaltPoint = .afterSequencing) (s : State) :
    rdWrHalt s t = { t with desired := .halt } := by
  simp only [rdWrHalt, h]

theorem rdWrHalt_discardAll {t : State} (h : t.params.rdwrHaltPoint = .discardAll) (s : State) :
    rdWrHalt s t = { s with desired := .halt } := by
  simp only [rdWrHalt, h]

theorem rdWrHalt_complete {t : State} (h : t.params.rdwrHaltPoint = .complete) (s : State) :
    rdWrHalt s t = endOfStep { t with desired := .halt } := by
  simp only [rdWrHalt, h]

end Sys2Proof.Machine
end

