-- ==== Sys2Proof/Laws/Cycle.lean ====
section
/-! SUPPORT. What a Step can do: one lemma for a Step that runs to its end, one for each way it does not, and the
dispatch as the Step of the instruction's control word. -/

namespace Sys2Proof.Machine

/-- Every arm is the Step of the instruction's control word: the name of the word makes no difference. -/
theorem exec_eq_runWord (i : Instr) (s : State) : exec i s = runWord i.control s := by
  cases i <;> rfl

theorem exec_nameOf (m : MicroInstr) (s : State) : exec (nameOf m) s = runWord m s := by
  rw [exec_eq_runWord, control_nameOf]

/-! ## Sub-steps 2 to 7 -/

/-- The register file after sub-step 6. -/
def latchedRegister (m : MicroInstr) (v : Word) (s : State) : State :=
  if m.enc && !s.isConstantReg m.c then s.setReg m.c v else s

/-- The state after sub-step 7 of a Step that starts in `s`. -/
def afterDatapath (m : MicroInstr) (s : State) : State :=
  sequence m (cycleResult m s)
    (latchedRegister m (cycleOutput m s) (latchMbr m (cycleOutput m s) (latchMar m (bBus m s) s)))

theorem latchReg_eq {m : MicroInstr} {s : State} (v : Word) (h : constantWriteFaults m s = false) :
    latchReg m v s = .done (latchedRegister m v s) := by
  simp only [latchReg, latchedRegister, writeReg_spec]
  cases he : m.enc <;> cases hc : s.isConstantReg m.c <;> simp
  cases hp : s.params.constWritePolicy <;> simp_all [constantWriteFaults]

theorem constantWriteFaults_latched (m : MicroInstr) (s : State) (v w : Word) :
    constantWriteFaults m (latchMbr m v (latchMar m w s)) = constantWriteFaults m s := by
  simp [constantWriteFaults, State.isConstantReg]

theorem datapath_eq {m : MicroInstr} {s : State} (hs : shiftFaults m s = false) (hc : constantWriteFaults m s = false) :
    datapath m s = .done (afterDatapath m s) := by
  rw [datapath, if_neg (by simp [hs]), latchReg_eq _ (by rw [constantWriteFaults_latched, hc])]
  rfl

theorem datapath_reservedShift {m : MicroInstr} {s : State} (hs : shiftFaults m s = true) :
    datapath m s = .raised .reservedShift := by
  rw [datapath, if_pos hs]

theorem datapath_constantWrite {m : MicroInstr} {s : State} (hs : shiftFaults m s = false)
    (hc : constantWriteFaults m s = true) : datapath m s = .raised .constantWrite := by
  have : latchReg m (cycleOutput m s) (latchMbr m (cycleOutput m s) (latchMar m (bBus m s) s)) = .raised .constantWrite := by
    rw [← constantWriteFaults_latched m s (cycleOutput m s) (bBus m s)] at hc
    simp only [constantWriteFaults, Bool.and_eq_true, decide_eq_true_eq] at hc
    have hp := hc.2
    simp only [latchMbr_params, latchMar_params] at hp
    simp [latchReg, writeReg_spec, hc.1.1, hc.1.2, hp]
  rw [datapath, if_neg (by simp [hs]), this]
  rfl

@[simp] theorem latchedRegister_params (m : MicroInstr) (v : Word) (s : State) :
    (latchedRegister m v s).params = s.params := by unfold latchedRegister; split <;> rfl
@[simp] theorem latchedRegister_mar (m : MicroInstr) (v : Word) (s : State) :
    (latchedRegister m v s).mar = s.mar := by unfold latchedRegister; split <;> rfl
@[simp] theorem latchedRegister_mbr (m : MicroInstr) (v : Word) (s : State) :
    (latchedRegister m v s).mbr = s.mbr := by unfold latchedRegister; split <;> rfl
@[simp] theorem latchedRegister_stgA (m : MicroInstr) (v : Word) (s : State) :
    (latchedRegister m v s).stgA = s.stgA := by unfold latchedRegister; split <;> rfl
@[simp] theorem latchedRegister_stgB (m : MicroInstr) (v : Word) (s : State) :
    (latchedRegister m v s).stgB = s.stgB := by unfold latchedRegister; split <;> rfl
@[simp] theorem latchedRegister_mpc (m : MicroInstr) (v : Word) (s : State) :
    (latchedRegister m v s).mpc = s.mpc := by unfold latchedRegister; split <;> rfl
@[simp] theorem latchedRegister_cycles (m : MicroInstr) (v : Word) (s : State) :
    (latchedRegister m v s).cycles = s.cycles := by unfold latchedRegister; split <;> rfl
@[simp] theorem latchedRegister_runState (m : MicroInstr) (v : Word) (s : State) :
    (latchedRegister m v s).runState = s.runState := by unfold latchedRegister; split <;> rfl
@[simp] theorem latchedRegister_desired (m : MicroInstr) (v : Word) (s : State) :
    (latchedRegister m v s).desired = s.desired := by unfold latchedRegister; split <;> rfl
@[simp] theorem latchedRegister_rxs (m : MicroInstr) (v : Word) (s : State) :
    (latchedRegister m v s).rxs = s.rxs := by unfold latchedRegister; split <;> rfl
@[simp] theorem latchedRegister_txs (m : MicroInstr) (v : Word) (s : State) :
    (latchedRegister m v s).txs = s.txs := by unfold latchedRegister; split <;> rfl
@[simp] theorem latchedRegister_cs (m : MicroInstr) (v : Word) (s : State) :
    (latchedRegister m v s).cs = s.cs := by unfold latchedRegister; split <;> rfl
@[simp] theorem latchedRegister_mem (m : MicroInstr) (v : Word) (s : State) :
    (latchedRegister m v s).mem = s.mem := by unfold latchedRegister; split <;> rfl
@[simp] theorem latchedRegister_rxq (m : MicroInstr) (v : Word) (s : State) :
    (latchedRegister m v s).rxq = s.rxq := by unfold latchedRegister; split <;> rfl
@[simp] theorem latchedRegister_txq (m : MicroInstr) (v : Word) (s : State) :
    (latchedRegister m v s).txq = s.txq := by unfold latchedRegister; split <;> rfl
@[simp] theorem latchedRegister_fault (m : MicroInstr) (v : Word) (s : State) :
    (latchedRegister m v s).fault = s.fault := by unfold latchedRegister; split <;> rfl
@[simp] theorem latchedRegister_awaitingSpace (m : MicroInstr) (v : Word) (s : State) :
    (latchedRegister m v s).awaitingSpace = s.awaitingSpace := by unfold latchedRegister; split <;> rfl

@[simp] theorem afterDatapath_params (m : MicroInstr) (s : State) : (afterDatapath m s).params = s.params := by simp [afterDatapath]
@[simp] theorem afterDatapath_stgA (m : MicroInstr) (s : State) : (afterDatapath m s).stgA = s.stgA := by simp [afterDatapath]
@[simp] theorem afterDatapath_stgB (m : MicroInstr) (s : State) : (afterDatapath m s).stgB = s.stgB := by simp [afterDatapath]
@[simp] theorem afterDatapath_cycles (m : MicroInstr) (s : State) : (afterDatapath m s).cycles = s.cycles := by simp [afterDatapath]
@[simp] theorem afterDatapath_runState (m : MicroInstr) (s : State) : (afterDatapath m s).runState = s.runState := by simp [afterDatapath]
@[simp] theorem afterDatapath_desired (m : MicroInstr) (s : State) : (afterDatapath m s).desired = s.desired := by simp [afterDatapath]
@[simp] theorem afterDatapath_rxs (m : MicroInstr) (s : State) : (afterDatapath m s).rxs = s.rxs := by simp [afterDatapath]
@[simp] theorem afterDatapath_txs (m : MicroInstr) (s : State) : (afterDatapath m s).txs = s.txs := by simp [afterDatapath]
@[simp] theorem afterDatapath_cs (m : MicroInstr) (s : State) : (afterDatapath m s).cs = s.cs := by simp [afterDatapath]
@[simp] theorem afterDatapath_mem (m : MicroInstr) (s : State) : (afterDatapath m s).mem = s.mem := by simp [afterDatapath]
@[simp] theorem afterDatapath_rxq (m : MicroInstr) (s : State) : (afterDatapath m s).rxq = s.rxq := by simp [afterDatapath]
@[simp] theorem afterDatapath_txq (m : MicroInstr) (s : State) : (afterDatapath m s).txq = s.txq := by simp [afterDatapath]
@[simp] theorem afterDatapath_fault (m : MicroInstr) (s : State) : (afterDatapath m s).fault = s.fault := by simp [afterDatapath]
@[simp] theorem afterDatapath_awaitingSpace (m : MicroInstr) (s : State) : (afterDatapath m s).awaitingSpace = s.awaitingSpace := by simp [afterDatapath]

theorem afterDatapath_mar (m : MicroInstr) (s : State) :
    (afterDatapath m s).mar = if m.mar then s.readReg m.b else s.mar := by
  simp [afterDatapath, bBus]

theorem afterDatapath_mbr (m : MicroInstr) (s : State) :
    (afterDatapath m s).mbr = if m.mbr then cycleOutput m s else s.mbr := by
  simp [afterDatapath]

theorem afterDatapath_mpc (m : MicroInstr) (s : State) :
    (afterDatapath m s).mpc =
      if condTaken m.cond ((cycleResult m s).getLsbD 15) (decide (cycleResult m s = 0)) then m.addr else s.mpc + 1 := by
  simp [afterDatapath, nextMpc, negativeFlag, zeroFlag]

theorem writesRegister_congr {s t : State} (h : t.params = s.params) (m : MicroInstr) (i : RegIx) :
    writesRegister m t i = writesRegister m s i := by
  simp only [writesRegister, isConstantReg_congr h]

theorem latchedRegister_readReg (m : MicroInstr) (v : Word) (s : State) (i : RegIx) :
    (latchedRegister m v s).readReg i = if writesRegister m s i then v else s.readReg i := by
  unfold latchedRegister writesRegister
  by_cases hi : i = m.c
  · subst hi
    split <;> simp_all [readReg_setReg]
  · split <;> simp [readReg_setReg, hi]

theorem afterDatapath_readReg (m : MicroInstr) (s : State) (i : RegIx) :
    (afterDatapath m s).readReg i = if writesRegister m s i then cycleOutput m s else s.readReg i := by
  have hbase : (latchMbr m (cycleOutput m s) (latchMar m (bBus m s) s)).readReg i = s.readReg i :=
    readReg_congr (by simp) i
  have hw := writesRegister_congr (s := s) (t := latchMbr m (cycleOutput m s) (latchMar m (bBus m s) s)) (by simp) m i
  rw [← hbase, ← hw]
  exact latchedRegister_readReg _ _ _ _

/-- Sub-steps 2 to 7 in the words of the claims. -/
theorem latched_afterDatapath (m : MicroInstr) (s : State) :
    Latched m (cycleResult m s) (cycleOutput m s) s (afterDatapath m s) :=
  ⟨afterDatapath_mar m s, fun _ => afterDatapath_mbr m s, afterDatapath_readReg m s, afterDatapath_mpc m s⟩

/-! ## Sub-steps 8 to 11 -/

/-- The state after the request of a Step that runs to its end, a halt apart. -/
def afterRequest (m : MicroInstr) (s : State) : State :=
  match m.rd, m.wr with
  | true, _ => readCycle s
  | false, true =>
    match s.stgA, s.stgB with
    | some a, some v => { memWriteState a v s with stgA := none }
    | _, _ => { s with stgA := some s.busAddress, stgB := some s.mbr }
  | false, false => s

/-- The state a Step leaves when it runs to its end. -/
def afterCycle (m : MicroInstr) (s : State) : State :=
  if MicroInstr.halts m then rdWrHalt s (afterDatapath m s) else endOfStep (afterRequest m (afterDatapath m s))

theorem transmitBlocked_afterDatapath (m : MicroInstr) (s : State) (a : Addr) :
    (afterDatapath m s).transmitBlocked a = s.transmitBlocked a :=
  transmitBlocked_congr (by simp) (by simp) (by simp) a

theorem microCycle_completes {m : MicroInstr} {s : State} (h : cycleCompletes m s = true) :
    microCycle m s = .done (afterCycle m s) := by
  simp only [cycleCompletes, Bool.and_eq_true, Bool.not_eq_true'] at h
  obtain ⟨⟨⟨hs, hc⟩, hst⟩, hh⟩ := h
  rw [microCycle, datapath_eq hs hc]
  show memoryBus m s (afterDatapath m s) = _
  unfold memoryBus afterCycle afterRequest MicroInstr.halts
  cases hrd : m.rd <;> cases hwr : m.wr <;> simp only [Bool.and_true, Bool.and_false, if_true] <;> try rfl
  cases ha : (afterDatapath m s).stgA with
  | none => rw [writeCycle_first ha]; rfl
  | some a =>
    have ha' : s.stgA = some a := by simpa using ha
    cases hb : (afterDatapath m s).stgB with
    | none =>
      have hb' : s.stgB = none := by simpa using hb
      simp [writeIsStale, MicroInstr.writes, hrd, hwr, ha', hb'] at hst
    | some v =>
      have hb' : s.stgB = some v := by simpa using hb
      have : (afterDatapath m s).transmitBlocked a = false := by
        rw [transmitBlocked_afterDatapath]
        simpa [writeIsHeld, MicroInstr.writes, hrd, hwr, ha', hb'] using hh
      rw [writeCycle_second ha hb, this]
      rfl

theorem microCycle_reservedShift {m : MicroInstr} {s : State} (hs : shiftFaults m s = true) :
    microCycle m s = .raised .reservedShift := by
  rw [microCycle, datapath_reservedShift hs]; rfl

theorem microCycle_constantWrite {m : MicroInstr} {s : State} (hs : shiftFaults m s = false)
    (hc : constantWriteFaults m s = true) : microCycle m s = .raised .constantWrite := by
  rw [microCycle, datapath_constantWrite hs hc]; rfl

theorem microCycle_stale {m : MicroInstr} {s : State} (hs : shiftFaults m s = false)
    (hc : constantWriteFaults m s = false) (hst : writeIsStale m s = true) :
    microCycle m s = .raised .staleWriteStaging := by
  simp only [writeIsStale, MicroInstr.writes, Bool.and_eq_true, Bool.not_eq_true', Option.isSome_iff_exists,
    Option.isNone_iff_eq_none] at hst
  obtain ⟨⟨⟨hrd, hwr⟩, a, ha⟩, hb⟩ := hst
  rw [microCycle, datapath_eq hs hc]
  show memoryBus m s (afterDatapath m s) = _
  simp only [memoryBus, hrd, hwr]
  rw [writeCycle_stale (a := a) (by simpa using ha) (by simpa using hb)]
  rfl

theorem microCycle_held {m : MicroInstr} {s : State} (hs : shiftFaults m s = false)
    (hc : constantWriteFaults m s = false) (hh : writeIsHeld m s = true) : microCycle m s = .held := by
  cases ha : s.stgA with
  | none => simp [writeIsHeld, ha] at hh
  | some a =>
    cases hb : s.stgB with
    | none => simp [writeIsHeld, ha, hb] at hh
    | some v =>
      simp only [writeIsHeld, ha, hb, MicroInstr.writes, Bool.and_eq_true, Bool.not_eq_true'] at hh
      obtain ⟨⟨hrd, hwr⟩, hbl⟩ := hh
      rw [microCycle, datapath_eq hs hc]
      show memoryBus m s (afterDatapath m s) = _
      simp only [memoryBus, hrd, hwr]
      rw [writeCycle_second (a := a) (v := v) (by simpa using ha) (by simpa using hb), transmitBlocked_afterDatapath, hbl]
      rfl

/-- The four ways a Step ends (40_datapath.md R141, 60_exceptions.md R266). -/
theorem microCycle_cases (m : MicroInstr) (s : State) :
    (shiftFaults m s = true ∧ microCycle m s = .raised .reservedShift) ∨
    (shiftFaults m s = false ∧ constantWriteFaults m s = true ∧ microCycle m s = .raised .constantWrite) ∨
    (shiftFaults m s = false ∧ constantWriteFaults m s = false ∧ writeIsStale m s = true ∧
      microCycle m s = .raised .staleWriteStaging) ∨
    (shiftFaults m s = false ∧ constantWriteFaults m s = false ∧ writeIsStale m s = false ∧ writeIsHeld m s = true ∧
      microCycle m s = .held) ∨
    (cycleCompletes m s = true ∧ microCycle m s = .done (afterCycle m s)) := by
  cases hs : shiftFaults m s
  · cases hc : constantWriteFaults m s
    · cases hst : writeIsStale m s
      · cases hh : writeIsHeld m s
        · have : cycleCompletes m s = true := by simp [cycleCompletes, hs, hc, hst, hh]
          simp [this, microCycle_completes this]
        · simp [microCycle_held hs hc hh]
      · simp [microCycle_stale hs hc hst]
    · simp [microCycle_constantWrite hs hc]
  · simp [microCycle_reservedShift hs]

theorem runWord_completes {m : MicroInstr} {s : State} (h : cycleCompletes m s = true) :
    runWord m s = .next (afterCycle m s) := by
  rw [runWord, microCycle_completes h]; rfl

theorem exec_completes {i : Instr} {s : State} (h : cycleCompletes i.control s = true) :
    exec i s = .next (afterCycle i.control s) := by
  rw [exec_eq_runWord, runWord_completes h]

/-- An instruction always answers a next state: it runs to its end, records a fault, or is held. -/
theorem runWord_next (m : MicroInstr) (s : State) :
    (cycleCompletes m s = true ∧ runWord m s = .next (afterCycle m s)) ∨
    (cycleCompletes m s = false ∧ ∃ f, runWord m s = .next (raise f s)) ∨
    (cycleCompletes m s = false ∧ runWord m s = .next s) := by
  rcases microCycle_cases m s with h | h | h | h | h
  · exact .inr (.inl ⟨by simp [cycleCompletes, h.1], _, by rw [runWord, h.2]; rfl⟩)
  · exact .inr (.inl ⟨by simp [cycleCompletes, h.2.1], _, by rw [runWord, h.2.2]; rfl⟩)
  · exact .inr (.inl ⟨by simp [cycleCompletes, h.2.2.1], _, by rw [runWord, h.2.2.2]; rfl⟩)
  · exact .inr (.inr ⟨by simp [cycleCompletes, h.2.2.2.1], by rw [runWord, h.2.2.2.2]; rfl⟩)
  · exact .inl ⟨h.1, by rw [runWord, h.2]; rfl⟩

/-- Everything a Step can do. -/
theorem step_cases (s : State) :
    (∃ f, s.fault = some f ∧ step s = .fault f) ∨
    (s.fault = none ∧ ControlStore.slot s.cs s.mpc = none ∧ step s = .next (raise (.fatal s.mpc) s)) ∨
    (∃ slot, s.fault = none ∧ ControlStore.slot s.cs s.mpc = some slot ∧ step s = runWord slot.mi s) := by
  unfold step fetch
  cases hf : s.fault with
  | some f => exact .inl ⟨f, rfl, rfl⟩
  | none =>
    cases hs : ControlStore.slot s.cs s.mpc with
    | none => exact .inr (.inl ⟨rfl, rfl, rfl⟩)
    | some slot => exact .inr (.inr ⟨slot, rfl, rfl, exec_nameOf _ _⟩)

end Sys2Proof.Machine
end

