-- ==== Sys2Proof/Laws/Completion.lean ====
section
/-! SUPPORT. The state a Step that runs to its end leaves, field by field. -/

namespace Sys2Proof.Machine

/-! ## `afterRequest` -/

/-- The request of a Step leaves everything but MBR, staging, memory and the serial device. -/
theorem afterRequest_frame (m : MicroInstr) (s : State) :
    (afterRequest m s).params = s.params ∧ (afterRequest m s).regs = s.regs ∧ (afterRequest m s).mar = s.mar ∧
    (afterRequest m s).mpc = s.mpc ∧ (afterRequest m s).cycles = s.cycles ∧
    (afterRequest m s).runState = s.runState ∧ (afterRequest m s).desired = s.desired ∧
    (afterRequest m s).cs = s.cs ∧ (afterRequest m s).rxq = s.rxq ∧ (afterRequest m s).fault = s.fault ∧
    (afterRequest m s).awaitingSpace = s.awaitingSpace := by
  unfold afterRequest
  split
  · simp
  · split <;> simp
  · simp

@[simp] theorem afterRequest_params (m : MicroInstr) (s : State) : (afterRequest m s).params = s.params :=
  (afterRequest_frame m s).1
@[simp] theorem afterRequest_regs (m : MicroInstr) (s : State) : (afterRequest m s).regs = s.regs :=
  (afterRequest_frame m s).2.1
@[simp] theorem afterRequest_mar (m : MicroInstr) (s : State) : (afterRequest m s).mar = s.mar :=
  (afterRequest_frame m s).2.2.1
@[simp] theorem afterRequest_mpc (m : MicroInstr) (s : State) : (afterRequest m s).mpc = s.mpc :=
  (afterRequest_frame m s).2.2.2.1
@[simp] theorem afterRequest_cycles (m : MicroInstr) (s : State) : (afterRequest m s).cycles = s.cycles :=
  (afterRequest_frame m s).2.2.2.2.1
@[simp] theorem afterRequest_runState (m : MicroInstr) (s : State) : (afterRequest m s).runState = s.runState :=
  (afterRequest_frame m s).2.2.2.2.2.1
@[simp] theorem afterRequest_desired (m : MicroInstr) (s : State) : (afterRequest m s).desired = s.desired :=
  (afterRequest_frame m s).2.2.2.2.2.2.1
@[simp] theorem afterRequest_cs (m : MicroInstr) (s : State) : (afterRequest m s).cs = s.cs :=
  (afterRequest_frame m s).2.2.2.2.2.2.2.1
@[simp] theorem afterRequest_rxq (m : MicroInstr) (s : State) : (afterRequest m s).rxq = s.rxq :=
  (afterRequest_frame m s).2.2.2.2.2.2.2.2.1
@[simp] theorem afterRequest_fault (m : MicroInstr) (s : State) : (afterRequest m s).fault = s.fault :=
  (afterRequest_frame m s).2.2.2.2.2.2.2.2.2.1
@[simp] theorem afterRequest_awaitingSpace (m : MicroInstr) (s : State) :
    (afterRequest m s).awaitingSpace = s.awaitingSpace := (afterRequest_frame m s).2.2.2.2.2.2.2.2.2.2

/-- Without a request nothing happens. -/
theorem afterRequest_none {m : MicroInstr} (hr : m.rd = false) (hw : m.wr = false) (s : State) :
    afterRequest m s = s := by
  simp only [afterRequest, hr, hw]

theorem afterRequest_read {m : MicroInstr} (hr : m.rd = true) (s : State) : afterRequest m s = readCycle s := by
  simp only [afterRequest, hr]

theorem afterRequest_writeFirst {m : MicroInstr} {s : State} (hr : m.rd = false) (hw : m.wr = true)
    (ha : s.stgA = none) : afterRequest m s = { s with stgA := some s.busAddress, stgB := some s.mbr } := by
  simp only [afterRequest, hr, hw, ha]

theorem afterRequest_writeSecond {m : MicroInstr} {s : State} {a : Addr} {v : Word} (hr : m.rd = false)
    (hw : m.wr = true) (ha : s.stgA = some a) (hb : s.stgB = some v) :
    afterRequest m s = { memWriteState a v s with stgA := none } := by
  simp only [afterRequest, hr, hw, ha, hb]

/-- MBR changes in sub-step 8 only by a read cycle 2. -/
theorem afterRequest_mbr (m : MicroInstr) (s : State) (h : (m.rd && s.stgA.isSome) = false) :
    (afterRequest m s).mbr = s.mbr := by
  cases hr : m.rd
  · simp only [afterRequest, hr]
    split
    · simp_all
    · split <;> simp
    · rfl
  · rw [afterRequest_read hr, readCycle_first (by simpa [hr] using h)]

/-! ## `afterCycle` -/

theorem afterCycle_eq {m : MicroInstr} (h : MicroInstr.halts m = false) (s : State) :
    afterCycle m s = endOfStep (afterRequest m (afterDatapath m s)) := by
  rw [afterCycle, if_neg (by simp [h])]

/-- Sub-steps 2 to 7 as they stand at the end of the Step. -/
theorem latched_afterCycle {m : MicroInstr} (h : MicroInstr.halts m = false) (s : State) :
    Latched m (cycleResult m s) (cycleOutput m s) s (afterCycle m s) := by
  rw [afterCycle_eq h]
  refine ⟨?_, ?_, ?_, ?_⟩
  · simp [afterDatapath_mar]
  · intro hr
    rw [endOfStep_mbr, afterRequest_mbr, afterDatapath_mbr]
    cases hrd : m.rd
    · rfl
    · simp_all [MicroInstr.reads, MicroInstr.halts]
  · intro i
    rw [readReg_congr (t := endOfStep _) (s := afterDatapath m s) (by simp), afterDatapath_readReg]
  · simp [afterDatapath_mpc]

theorem afterCycle_cycles {m : MicroInstr} (h : MicroInstr.halts m = false) (s : State) :
    (afterCycle m s).cycles = s.cycles + 1 := by
  simp [afterCycle_eq h]

theorem breakpointAt_congr {s t : State} (hc : t.cs = s.cs) (hm : t.mpc = s.mpc) : breakpointAt t = breakpointAt s := by
  simp only [breakpointAt, hc, hm]

theorem afterCycle_desired {m : MicroInstr} (h : MicroInstr.halts m = false) (s : State) :
    (afterCycle m s).desired = if breakpointAt (afterCycle m s) then .halt else s.desired := by
  rw [afterCycle_eq h, endOfStep_desired, breakpointAt_congr (t := endOfStep (afterRequest m (afterDatapath m s)))
    (s := afterRequest m (afterDatapath m s)) (by simp) (by simp)]
  simp

/-- A Step that runs to its end keeps the frame. -/
theorem stepFrame_afterCycle (m : MicroInstr) (s : State) : StepFrame s (afterCycle m s) := by
  cases h : MicroInstr.halts m
  · simp [StepFrame, afterCycle_eq h]
  · simp only [StepFrame, afterCycle, h, if_true]
    unfold rdWrHalt
    split <;> simp

theorem afterCycle_txq_txs {m : MicroInstr} (h : MicroInstr.writes m = false) (s : State) :
    (afterCycle m s).stgB = s.stgB ∧ (afterCycle m s).txs = s.txs ∧ (afterCycle m s).txq = s.txq := by
  cases hh : MicroInstr.halts m
  · rw [afterCycle_eq hh]
    cases hr : m.rd
    · have hw : m.wr = false := by simpa [MicroInstr.writes, hr] using h
      simp [afterRequest_none hr hw]
    · simp [afterRequest_read hr]
  · simp only [afterCycle, hh, if_true]
    unfold rdWrHalt
    split <;> simp

theorem pollTakes_afterDatapath (m : MicroInstr) (s : State) : pollTakes (afterDatapath m s) = pollTakes s :=
  pollTakes_congr (by simp) (by simp) (by simp)

/-! ## The fields a Step does not read -/

/-- The two control fields of the run loop that a Step does not read, set to given values. -/
def withLoopFields (d : RunState) (w : Bool) (s : State) : State := { s with desired := d, awaitingSpace := w }

theorem afterDatapath_loopFields (m : MicroInstr) (d : RunState) (w : Bool) (s : State) :
    afterDatapath m (withLoopFields d w s) = withLoopFields d w (afterDatapath m s) := by
  have hc : (withLoopFields d w s).isConstantReg m.c = s.isConstantReg m.c := rfl
  simp only [afterDatapath, latchedRegister, isConstantReg_congr (s := s) (t := latchMbr m _ (latchMar m _ s)) (by simp),
    isConstantReg_congr (s := s) (t := latchMbr m _ (latchMar m _ (withLoopFields d w s))) (by simp [withLoopFields])]
  unfold latchMbr latchMar
  cases m.enc && !s.isConstantReg m.c <;> cases m.mbr <;> cases m.mar <;> rfl

theorem memWriteState_loopFields (a : Addr) (v : Word) (d : RunState) (w : Bool) (s : State) :
    memWriteState a v (withLoopFields d w s) = withLoopFields d w (memWriteState a v s) := by
  by_cases hv : v = s.params.enableCode <;> by_cases h1 : a = s.params.rxStatusAddr <;>
    by_cases h2 : a = s.params.txStatusAddr <;> by_cases h3 : a = s.params.txDataAddr <;>
    cases h4 : s.params.txStatusRead <;> cases h5 : s.txEnabled <;> cases s <;>
    simp_all [memWriteState, withLoopFields, transmit, State.storeCell, State.txEnabled]

theorem readCycle_loopFields (d : RunState) (w : Bool) (s : State) :
    readCycle (withLoopFields d w s) = withLoopFields d w (readCycle s) := by
  cases ha : s.stgA with
  | none =>
    have ha' : (withLoopFields d w s).stgA = none := ha
    rw [readCycle_first ha, readCycle_first ha']; rfl
  | some a =>
    have he : memReadEffect a (withLoopFields d w s) = withLoopFields d w (memReadEffect a s) := by
      by_cases h1 : a = s.params.rxDataAddr <;> cases h2 : s.rxEnabled <;> cases h3 : s.rxReady <;>
        simp_all [memReadEffect, acknowledgeReceive, withLoopFields, State.rxEnabled, State.rxReady]
    have ha' : (withLoopFields d w s).stgA = some a := ha
    rw [readCycle_second ha, readCycle_second ha', he]
    rfl

theorem afterRequest_loopFields (m : MicroInstr) (d : RunState) (w : Bool) (s : State) :
    afterRequest m (withLoopFields d w s) = withLoopFields d w (afterRequest m s) := by
  cases hr : m.rd
  · cases hw : m.wr
    · rw [afterRequest_none hr hw, afterRequest_none hr hw]
    · cases ha : s.stgA with
      | none => rw [afterRequest_writeFirst hr hw ha, afterRequest_writeFirst hr hw (s := withLoopFields d w s) ha]; rfl
      | some a =>
        cases hb : s.stgB with
        | none =>
          simp only [afterRequest, hr, hw, ha, hb, withLoopFields]; rfl
        | some v =>
          rw [afterRequest_writeSecond hr hw ha hb,
            afterRequest_writeSecond hr hw (s := withLoopFields d w s) ha hb, memWriteState_loopFields]
          rfl
  · rw [afterRequest_read hr, afterRequest_read hr, readCycle_loopFields]

theorem receivePoll_loopFields (d : RunState) (w : Bool) (s : State) :
    receivePoll (withLoopFields d w s) = withLoopFields d w (receivePoll s) := by
  cases h2 : s.rxEnabled <;> cases h3 : s.rxReady <;> cases h4 : s.rxq <;>
    simp_all [receivePoll, withLoopFields, State.rxEnabled, State.rxReady]

/-- With Desired = HALT a breakpoint makes no difference. -/
theorem endOfStep_loopFields (w : Bool) (s : State) :
    endOfStep (withLoopFields .halt w s) = withLoopFields .halt w (endOfStep s) := by
  have : breakpointCheck (countCycle (withLoopFields .halt w s)) = withLoopFields .halt w (breakpointCheck (countCycle s)) := by
    simp only [breakpointCheck, countCycle, withLoopFields]
    cases ControlStore.slot s.cs s.mpc with
    | none => rfl
    | some slot => cases h : slot.bp <;> simp [h]
  rw [endOfStep, this, receivePoll_loopFields]
  rfl

theorem afterCycle_loopFields {m : MicroInstr} (h : MicroInstr.halts m = false) (w : Bool) (s : State) :
    afterCycle m (withLoopFields .halt w s) = withLoopFields .halt w (afterCycle m s) := by
  rw [afterCycle_eq h, afterCycle_eq h, afterDatapath_loopFields, afterRequest_loopFields, endOfStep_loopFields]

end Sys2Proof.Machine
end

