-- ==== Sys2Proof/Laws/RunLoop.lean ====
section
/-! SUPPORT. The turns of the run loop, case by case, and the Step of a state whose slot is known. -/

namespace Sys2Proof.Machine

theorem step_recorded {s : State} {f : Fault} (h : s.fault = some f) : step s = .fault f := by
  simp [step, h]

theorem step_empty {s : State} (hf : s.fault = none) (hs : ControlStore.slot s.cs s.mpc = none) :
    step s = .next { s with fault := some (.fatal s.mpc) } := by
  simp [step, hf, fetch, hs, raise]

theorem step_defined {s : State} {slot : Slot} (hf : s.fault = none) (hs : ControlStore.slot s.cs s.mpc = some slot) :
    step s = runWord slot.mi s := by
  simp only [step, hf, fetch, hs, exec_nameOf]

theorem awaitingSpace_self {s : State} (h : s.awaitingSpace = false) : { s with awaitingSpace := false } = s := by
  rw [← h]

theorem runTurn_halted {s : State} (ha : s.awaitingSpace = false) (hd : s.desired = .halt) :
    runTurn s = .halted { s with runState := .halt } := by
  simp only [runTurn, ha, hd, if_true, Bool.false_eq_true, if_false]

theorem runTurn_runs {s : State} (ha : s.awaitingSpace = false) (hd : s.desired = .run) : runTurn s = runStep s := by
  simp [runTurn, ha, hd]

theorem runTurn_waits {s : State} (ha : s.awaitingSpace = true) (hq : s.txq.length = s.params.txqCap) :
    runTurn s = .running s := by
  simp [runTurn, ha, hq]

theorem runTurn_retries {s : State} (ha : s.awaitingSpace = true) (hq : s.txq.length ≠ s.params.txqCap) :
    runTurn s = runStep s := by
  simp [runTurn, ha, hq]

theorem runStep_held {s : State} (h : stepHeld s = true) : runStep s = .running { s with awaitingSpace := true } := by
  simp only [runStep, h, if_true]

theorem runStep_next {s t : State} (h : stepHeld s = false) (hs : step { s with awaitingSpace := false } = .next t)
    (hf : t.fault = none) : runStep s = .running t := by
  simp only [runStep, h, Bool.false_eq_true, if_false, hs, hf]

theorem runStep_raised {s t : State} {f : Fault} (h : stepHeld s = false)
    (hs : step { s with awaitingSpace := false } = .next t) (hf : t.fault = some f) :
    runStep s = .aborted f { t with runState := .halt } := by
  simp only [runStep, h, Bool.false_eq_true, if_false, hs, hf]

theorem runStep_fault {s : State} {f : Fault} (h : stepHeld s = false)
    (hs : step { s with awaitingSpace := false } = .fault f) :
    runStep s = .aborted f { s with awaitingSpace := false, runState := .halt } := by
  simp only [runStep, h, Bool.false_eq_true, if_false, hs]

theorem stepHeld_recorded {s : State} {f : Fault} (h : s.fault = some f) : stepHeld s = false := by
  simp [stepHeld, h]

theorem stepHeld_empty {s : State} (hs : ControlStore.slot s.cs s.mpc = none) : stepHeld s = false := by
  unfold stepHeld
  cases s.fault <;> simp [fetch, hs]

theorem stepHeld_completes {s : State} {slot : Slot} (hs : ControlStore.slot s.cs s.mpc = some slot)
    (hc : cycleCompletes slot.mi s = true) : stepHeld s = false := by
  unfold stepHeld
  cases s.fault <;> simp [fetch, hs, microCycle_completes hc]

/-- A held Step answers the state it started in. -/
theorem step_held {s : State} (h : stepHeld s = true) : step s = .next s := by
  unfold stepHeld at h
  cases hf : s.fault with
  | some f => simp [hf] at h
  | none =>
    cases hs : ControlStore.slot s.cs s.mpc with
    | none => simp [hf, fetch, hs] at h
    | some slot =>
      rw [step_defined hf hs, runWord]
      simp only [hf, fetch, hs] at h
      cases hm : microCycle slot.mi s <;> simp_all [commit]

/-- The state a call of Step from the loop leaves: that of a Step, or the same one, but for the run state and the wait. -/
theorem runStep_state (s : State) :
    (∃ w r, (runStep s).state = { s with awaitingSpace := w, runState := r }) ∨
    ∃ t r, step { s with awaitingSpace := false } = .next t ∧ (runStep s).state = { t with runState := r } := by
  cases hh : stepHeld s with
  | true => exact .inl ⟨true, s.runState, by rw [runStep_held hh]; rfl⟩
  | false =>
    cases hs : step { s with awaitingSpace := false } with
    | next t =>
      cases ht : t.fault with
      | none => exact .inr ⟨t, t.runState, rfl, by rw [runStep_next hh hs ht]; rfl⟩
      | some f => exact .inr ⟨t, .halt, rfl, by rw [runStep_raised hh hs ht]; rfl⟩
    | fault f => exact .inl ⟨false, .halt, by rw [runStep_fault hh hs]; rfl⟩
    | refused r => exact .inl ⟨false, .halt, by simp [runStep, hh, hs, RunTurn.state]⟩

/-- The state a turn leaves. -/
theorem runTurn_state (s : State) :
    (∃ w r, (runTurn s).state = { s with awaitingSpace := w, runState := r }) ∨
    ∃ t r, step { s with awaitingSpace := false } = .next t ∧ (runTurn s).state = { t with runState := r } := by
  unfold runTurn
  split
  · split
    · exact .inl ⟨s.awaitingSpace, s.runState, rfl⟩
    · exact runStep_state s
  · split
    · exact .inl ⟨s.awaitingSpace, .halt, rfl⟩
    · exact runStep_state s

end Sys2Proof.Machine
end

