-- ==== Sys2Proof/Laws/Invariant.lean ====
section
/-! SUPPORT. The parts of the invariant as propositions, and that memory and the control store are canonical at reset. -/

namespace Sys2Proof.Machine

theorem constantsHold_iff (s : State) :
    constantsHold s = true ↔
      s.readReg s.params.regIndex.zero = 0x0000 ∧ s.readReg s.params.regIndex.one = 0x0001 ∧
      s.readReg s.params.regIndex.mone = 0xFFFF ∧ s.readReg s.params.regIndex.amask = s.params.amaskValue ∧
      s.readReg s.params.regIndex.smask = s.params.smaskValue := by
  simp only [constantsHold, decide_eq_true_eq]

theorem rxsLegal_iff (s : State) :
    rxsLegal s = true ↔ s.rxs = 0 ∨ s.rxs = rxPending s.params ∨ s.rxs = readyVal s.params := by
  simp only [rxsLegal, decide_eq_true_eq]

theorem txsLegal_iff (s : State) : txsLegal s = true ↔ s.txs = 0 ∨ s.txs = readyVal s.params := by
  simp only [txsLegal, decide_eq_true_eq]

theorem queuesBounded_iff (s : State) :
    queuesBounded s = true ↔ s.rxq.length ≤ s.params.rxqCap ∧ s.txq.length ≤ s.params.txqCap := by
  simp only [queuesBounded, decide_eq_true_eq]

theorem wf_iff (s : State) :
    State.wf s = true ↔
      s.params.wf = true ∧ constantsHold s = true ∧ rxsLegal s = true ∧ txsLegal s = true ∧ queuesBounded s = true ∧
      Memory.wf s.mem = true ∧ ControlStore.wf s.cs = true := by
  simp only [State.wf, Bool.and_eq_true, and_assoc]

/-- The domains of the parameters. -/
theorem params_wf_iff (p : Params) :
    p.wf = true ↔
      p.regIndex.roles.Nodup ∧ p.deviceAddrs.Nodup ∧ p.enableBit ≠ p.readyBit ∧ 1 ≤ p.rxqCap ∧ 1 ≤ p.txqCap := by
  simp only [Params.wf, Bool.and_eq_true, decide_eq_true_eq, and_assoc]

theorem wf_mem_creation (p : Params) : Memory.wf (State.creation p).mem = true := rfl

theorem wf_cs_creation (p : Params) : ControlStore.wf (State.creation p).cs = true := rfl

/-- Reset leaves memory and the control store canonical. -/
theorem wf_mem_resetEngine {s : State} (h : Memory.wf s.mem = true) : Memory.wf (resetEngine s).mem = true := by
  simpa only [resetEngine_mem] using h

end Sys2Proof.Machine
end

