-- ==== Sys2Proof/Laws/PerInstr.lean ====
section
/-! SUPPORT. A law of the encoding for every instruction, one lemma for each constructor: the fields cut out of the
encoded word are those of the instruction's control word (30_encoding.md R102, R103), and the decoder names that word by a
well-formed instruction (R119). -/

namespace Sys2Proof.Laws.FieldsSurvive

/-- No field of the instruction is dropped by its encoding. -/
def Statement (i : Instr) : Prop :=
  decodeFields (encode i) = i.control ∧ (decode (encode i)).wellFormed = true ∧ (decode (encode i)).control = i.control

theorem any (i : Instr) : Statement i :=
  ⟨decodeFields_encodeFields _, wellFormed_nameOf _, by
    rw [decode, control_nameOf, encode, decodeFields_encodeFields]⟩

theorem microinstruction (m : MicroInstr) : Statement (.microinstruction m) := any _
theorem nop : Statement .nop := any _
theorem amuxReg (m : MicroInstr) : Statement (.amuxReg m) := any _
theorem amuxMbr (m : MicroInstr) : Statement (.amuxMbr m) := any _
theorem condNone (m : MicroInstr) : Statement (.condNone m) := any _
theorem condN (m : MicroInstr) : Statement (.condN m) := any _
theorem condZ (m : MicroInstr) : Statement (.condZ m) := any _
theorem condJump (m : MicroInstr) : Statement (.condJump m) := any _
theorem aluAdd (m : MicroInstr) : Statement (.aluAdd m) := any _
theorem aluAnd (m : MicroInstr) : Statement (.aluAnd m) := any _
theorem aluPassA (m : MicroInstr) : Statement (.aluPassA m) := any _
theorem aluInvA (m : MicroInstr) : Statement (.aluInvA m) := any _
theorem shNone (m : MicroInstr) : Statement (.shNone m) := any _
theorem shRight (m : MicroInstr) : Statement (.shRight m) := any _
theorem shLeft (m : MicroInstr) : Statement (.shLeft m) := any _
theorem shReserved (m : MicroInstr) : Statement (.shReserved m) := any _
theorem mbrHold (m : MicroInstr) : Statement (.mbrHold m) := any _
theorem mbrLatch (m : MicroInstr) : Statement (.mbrLatch m) := any _
theorem marHold (m : MicroInstr) : Statement (.marHold m) := any _
theorem marLatch (m : MicroInstr) : Statement (.marLatch m) := any _
theorem memNone (m : MicroInstr) : Statement (.memNone m) := any _
theorem memWrite (m : MicroInstr) : Statement (.memWrite m) := any _
theorem memRead (m : MicroInstr) : Statement (.memRead m) := any _
theorem memRdWrHalt (m : MicroInstr) : Statement (.memRdWrHalt m) := any _
theorem regHold (m : MicroInstr) : Statement (.regHold m) := any _
theorem regWrite (m : MicroInstr) : Statement (.regWrite m) := any _

end Sys2Proof.Laws.FieldsSurvive
end

