-- ==== Sys2Proof/Tests/Slice0.lean ====
section
/-! SUPPORT. Tests: ill-formed terms the check refuses, words written out bit by bit from the spec's encoding, one Step of
each instruction against 95_test_vectors.md, and for each obligation with hypotheses states and operands that meet
them. -/

namespace Sys2Proof.Tests

open Sys2Proof.Machine

/-! ## Well-formedness: one refused term for each check -/

/-- Refused for microinstruction: oneGroup, noGroup. -/
theorem test_illformed_microinstruction :
    ([.microinstruction { MicroInstr.zero with enc := true },
      .microinstruction MicroInstr.zero] : List Instr).all (fun i => !i.wellFormed) = true := by decide

/-- Refused for amuxReg: active, addr, c, b, zero. -/
theorem test_illformed_amuxReg :
    ([.amuxReg { MicroInstr.zero with mar := true, a := 1 },
      .amuxReg { MicroInstr.zero with addr := 1, a := 1 },
      .amuxReg { MicroInstr.zero with c := 1, a := 1 },
      .amuxReg { MicroInstr.zero with b := 1, a := 1 },
      .amuxReg MicroInstr.zero] : List Instr).all (fun i => !i.wellFormed) = true := by decide

/-- Refused for amuxMbr: notMbr, other. -/
theorem test_illformed_amuxMbr :
    ([.amuxMbr MicroInstr.zero,
      .amuxMbr { MicroInstr.zero with amux := .mbr, enc := true }] : List Instr).all (fun i => !i.wellFormed) = true := by decide

/-- Refused for condNone: active, zero, c, b, a. -/
theorem test_illformed_condNone :
    ([.condNone { MicroInstr.zero with enc := true, addr := 1 },
      .condNone MicroInstr.zero,
      .condNone { MicroInstr.zero with addr := 1, c := 1 },
      .condNone { MicroInstr.zero with addr := 1, b := 1 },
      .condNone { MicroInstr.zero with addr := 1, a := 1 }] : List Instr).all (fun i => !i.wellFormed) = true := by decide

/-- Refused for condN: group, code. -/
theorem test_illformed_condN :
    ([.condN { MicroInstr.zero with cond := .negative, rd := true },
      .condN { MicroInstr.zero with cond := .zero }] : List Instr).all (fun i => !i.wellFormed) = true := by decide

/-- Refused for condZ: group, code. -/
theorem test_illformed_condZ :
    ([.condZ { MicroInstr.zero with cond := .zero, rd := true },
      .condZ { MicroInstr.zero with cond := .jump }] : List Instr).all (fun i => !i.wellFormed) = true := by decide

/-- Refused for condJump: group, code. -/
theorem test_illformed_condJump :
    ([.condJump { MicroInstr.zero with cond := .jump, rd := true },
      .condJump { MicroInstr.zero with cond := .negative }] : List Instr).all (fun i => !i.wellFormed) = true := by decide

/-- Refused for aluAdd: active, addr, c, b, a. -/
theorem test_illformed_aluAdd :
    ([.aluAdd { MicroInstr.zero with a := 1, b := 1, enc := true },
      .aluAdd { MicroInstr.zero with a := 1, b := 1, addr := 1 },
      .aluAdd { MicroInstr.zero with a := 1, b := 1, c := 1 },
      .aluAdd { MicroInstr.zero with a := 1 },
      .aluAdd { MicroInstr.zero with b := 1 }] : List Instr).all (fun i => !i.wellFormed) = true := by decide

/-- Refused for aluAnd: group, code. -/
theorem test_illformed_aluAnd :
    ([.aluAnd { MicroInstr.zero with alu := .and, enc := true },
      .aluAnd { MicroInstr.zero with alu := .invA }] : List Instr).all (fun i => !i.wellFormed) = true := by decide

/-- Refused for aluPassA: group, code. -/
theorem test_illformed_aluPassA :
    ([.aluPassA { MicroInstr.zero with alu := .passA, enc := true },
      .aluPassA { MicroInstr.zero with alu := .and }] : List Instr).all (fun i => !i.wellFormed) = true := by decide

/-- Refused for aluInvA: group, code. -/
theorem test_illformed_aluInvA :
    ([.aluInvA { MicroInstr.zero with alu := .invA, enc := true },
      .aluInvA { MicroInstr.zero with alu := .passA }] : List Instr).all (fun i => !i.wellFormed) = true := by decide

/-- Refused for shNone: active, addr, c, b, a. -/
theorem test_illformed_shNone :
    ([.shNone { MicroInstr.zero with c := 1, a := 1, enc := true },
      .shNone { MicroInstr.zero with c := 1, a := 1, addr := 1 },
      .shNone { MicroInstr.zero with a := 1 },
      .shNone { MicroInstr.zero with c := 1, b := 1, a := 1 },
      .shNone { MicroInstr.zero with c := 1 }] : List Instr).all (fun i => !i.wellFormed) = true := by decide

/-- Refused for shRight: group, code. -/
theorem test_illformed_shRight :
    ([.shRight { MicroInstr.zero with sh := .right, enc := true },
      .shRight { MicroInstr.zero with sh := .left }] : List Instr).all (fun i => !i.wellFormed) = true := by decide

/-- Refused for shLeft: group, code. -/
theorem test_illformed_shLeft :
    ([.shLeft { MicroInstr.zero with sh := .left, enc := true },
      .shLeft { MicroInstr.zero with sh := .right }] : List Instr).all (fun i => !i.wellFormed) = true := by decide

/-- Refused for shReserved: group, code. -/
theorem test_illformed_shReserved :
    ([.shReserved { MicroInstr.zero with sh := .reserved, enc := true },
      .shReserved { MicroInstr.zero with sh := .right }] : List Instr).all (fun i => !i.wellFormed) = true := by decide

/-- Refused for mbrHold: active, addr, c, b. -/
theorem test_illformed_mbrHold :
    ([.mbrHold { MicroInstr.zero with c := 1, b := 1, enc := true },
      .mbrHold { MicroInstr.zero with c := 1, b := 1, addr := 1 },
      .mbrHold { MicroInstr.zero with b := 1 },
      .mbrHold { MicroInstr.zero with c := 1 }] : List Instr).all (fun i => !i.wellFormed) = true := by decide

/-- Refused for mbrLatch: notMbr, other. -/
theorem test_illformed_mbrLatch :
    ([.mbrLatch MicroInstr.zero,
      .mbrLatch { MicroInstr.zero with mbr := true, enc := true }] : List Instr).all (fun i => !i.wellFormed) = true := by decide

/-- Refused for marHold: active, addr, c, b, a. -/
theorem test_illformed_marHold :
    ([.marHold { MicroInstr.zero with b := 1, enc := true },
      .marHold { MicroInstr.zero with b := 1, addr := 1 },
      .marHold { MicroInstr.zero with b := 1, c := 1 },
      .marHold MicroInstr.zero,
      .marHold { MicroInstr.zero with b := 1, a := 1 }] : List Instr).all (fun i => !i.wellFormed) = true := by decide

/-- Refused for marLatch: notMar, other. -/
theorem test_illformed_marLatch :
    ([.marLatch MicroInstr.zero,
      .marLatch { MicroInstr.zero with mar := true, enc := true }] : List Instr).all (fun i => !i.wellFormed) = true := by decide

/-- Refused for memNone: active, addr, alone. -/
theorem test_illformed_memNone :
    ([.memNone { MicroInstr.zero with addr := 1, c := 1, enc := true },
      .memNone { MicroInstr.zero with c := 1 },
      .memNone { MicroInstr.zero with addr := 1 }] : List Instr).all (fun i => !i.wellFormed) = true := by decide

/-- Refused for memWrite: group, code. -/
theorem test_illformed_memWrite :
    ([.memWrite { MicroInstr.zero with wr := true, enc := true },
      .memWrite { MicroInstr.zero with rd := true }] : List Instr).all (fun i => !i.wellFormed) = true := by decide

/-- Refused for memRead: group, code. -/
theorem test_illformed_memRead :
    ([.memRead { MicroInstr.zero with rd := true, enc := true },
      .memRead { MicroInstr.zero with rd := true, wr := true }] : List Instr).all (fun i => !i.wellFormed) = true := by decide

/-- Refused for memRdWrHalt: group, rd, wr. -/
theorem test_illformed_memRdWrHalt :
    ([.memRdWrHalt { MicroInstr.zero with rd := true, wr := true, enc := true },
      .memRdWrHalt { MicroInstr.zero with wr := true },
      .memRdWrHalt { MicroInstr.zero with rd := true }] : List Instr).all (fun i => !i.wellFormed) = true := by decide

/-- Refused for regHold: active, addr, c, b, a. -/
theorem test_illformed_regHold :
    ([.regHold { MicroInstr.zero with c := 1, enc := true },
      .regHold { MicroInstr.zero with c := 1, addr := 1 },
      .regHold MicroInstr.zero,
      .regHold { MicroInstr.zero with c := 1, b := 1 },
      .regHold { MicroInstr.zero with c := 1, a := 1 }] : List Instr).all (fun i => !i.wellFormed) = true := by decide

/-- Refused for regWrite: notEnc, other. -/
theorem test_illformed_regWrite :
    ([.regWrite MicroInstr.zero,
      .regWrite { MicroInstr.zero with enc := true, mar := true }] : List Instr).all (fun i => !i.wellFormed) = true := by decide

/-! ## Decoding: a word of every constructor

Each word is written out from the spec's encoding (30_encoding.md R102, R119): the bits of the row's match and of the
operand fields. A row whose match is 0 shares the word 0 with NOP, so its word here holds operands (log 7). -/

/-- R114. -/
theorem test_decode_nop : decode 0x00000000 =
    .nop := by decide

theorem test_decode_amuxReg : decode 0x00000A00 =
    .amuxReg { MicroInstr.zero with a := 10 } := by decide

theorem test_decode_amuxMbr : decode 0x80000000 =
    .amuxMbr { MicroInstr.zero with amux := .mbr } := by decide

theorem test_decode_condNone : decode 0x00000012 =
    .condNone { MicroInstr.zero with addr := 0x12 } := by decide

theorem test_decode_condN : decode 0x20000012 =
    .condN { MicroInstr.zero with cond := .negative, addr := 0x12 } := by decide

theorem test_decode_condZ : decode 0x40000034 =
    .condZ { MicroInstr.zero with cond := .zero, addr := 0x34 } := by decide

theorem test_decode_condJump : decode 0x600000FF =
    .condJump { MicroInstr.zero with cond := .jump, addr := 255 } := by decide

theorem test_decode_aluAdd : decode 0x0000BA00 =
    .aluAdd { MicroInstr.zero with b := 11, a := 10 } := by decide

theorem test_decode_aluAnd : decode 0x08001200 =
    .aluAnd { MicroInstr.zero with alu := .and, b := 1, a := 2 } := by decide

theorem test_decode_aluPassA : decode 0x10000300 =
    .aluPassA { MicroInstr.zero with alu := .passA, a := 3 } := by decide

theorem test_decode_aluInvA : decode 0x18000300 =
    .aluInvA { MicroInstr.zero with alu := .invA, a := 3 } := by decide

theorem test_decode_shNone : decode 0x000A0600 =
    .shNone { MicroInstr.zero with c := 10, a := 6 } := by decide

theorem test_decode_shRight : decode 0x02000000 =
    .shRight { MicroInstr.zero with sh := .right } := by decide

theorem test_decode_shLeft : decode 0x04000000 =
    .shLeft { MicroInstr.zero with sh := .left } := by decide

theorem test_decode_shReserved : decode 0x06000000 =
    .shReserved { MicroInstr.zero with sh := .reserved } := by decide

theorem test_decode_mbrHold : decode 0x000AB000 =
    .mbrHold { MicroInstr.zero with c := 10, b := 11 } := by decide

theorem test_decode_mbrLatch : decode 0x01000000 =
    .mbrLatch { MicroInstr.zero with mbr := true } := by decide

theorem test_decode_marHold : decode 0x0000B000 =
    .marHold { MicroInstr.zero with b := 11 } := by decide

theorem test_decode_marLatch : decode 0x0080A000 =
    .marLatch { MicroInstr.zero with mar := true, b := 10 } := by decide

theorem test_decode_memNone : decode 0x000A0012 =
    .memNone { MicroInstr.zero with c := 10, addr := 0x12 } := by decide

theorem test_decode_memWrite : decode 0x00200000 =
    .memWrite { MicroInstr.zero with wr := true } := by decide

theorem test_decode_memRead : decode 0x00400000 =
    .memRead { MicroInstr.zero with rd := true } := by decide

theorem test_decode_memRdWrHalt : decode 0x00600000 =
    .memRdWrHalt { MicroInstr.zero with rd := true, wr := true } := by decide

theorem test_decode_regHold : decode 0x00030000 =
    .regHold { MicroInstr.zero with c := 3 } := by decide

theorem test_decode_regWrite : decode 0x00130000 =
    .regWrite { MicroInstr.zero with enc := true, c := 3 } := by decide

/-- 95_test_vectors.md 2.1. -/
theorem test_decode_microinstruction : decode 0xFFFFFFFF =
    .microinstruction { MicroInstr.zero with amux := .mbr, cond := .jump, alu := .invA, sh := .reserved, mbr := true, mar := true, rd := true, wr := true, enc := true, c := 15, b := 15, a := 15, addr := 255 } := by decide

/-- The words 401A7A06 and C800D009 of 95_test_vectors.md 2.1. -/
theorem test_decode_vectors :
    decode 0x401A7A06 = .microinstruction { MicroInstr.zero with cond := .zero, enc := true, c := 10, b := 7, a := 10, addr := 6 } ∧
    decode 0xC800D009 = .microinstruction { MicroInstr.zero with amux := .mbr, cond := .zero, alu := .and, b := 13, addr := 9 } := by
  decide

/-- `Encode` gives back the words of 95_test_vectors.md 2.1. -/
theorem test_encode_vectors :
    ([0x00000000, 0xFFFFFFFF, 0x90DA6000, 0x401A7A06, 0xC800D009, 0x141A0600, 0x70000003] : List ControlWord).all
      (fun w => encode (decode w) == w) = true := by decide

/-- L1.1 of 95_test_vectors.md: 00C00000 has RD = 1 and MAR = 1 and every other field 0. -/
theorem test_decode_readAndLatch :
    decodeFields 0x00C00000 = { MicroInstr.zero with rd := true, mar := true } := by decide

/-- Three bytes are no control word, four are one, most significant byte first (20_memory.md R66). -/
theorem test_decodeBytes :
    decodeBytes [0x60, 0x00, 0x00] = .error .truncated ∧
    decodeBytes [0x60, 0x00, 0x00, 0xFF, 0x01] = .ok (.condJump { MicroInstr.zero with cond := .jump, addr := 255 }, [0x01]) := by
  decide

/-- A word of more than 32 bits is none. -/
theorem test_decodeTableWord :
    decodeTableWord 32 0x600000FF = some (.condJump { MicroInstr.zero with cond := .jump, addr := 255 }) ∧
    decodeTableWord 33 0 = none := by decide

/-- A line of 16 binary digits, a comment line and a line of 3 digits (20_memory.md R66). -/
theorem test_textualImage :
    memoryText ["# sum".toList, "1010101111001101".toList] = .ok [0xABCD] ∧
    memoryText ["101".toList] = .error .badLine := by decide

/-! ## One Step of each instruction -/

/-- The reset state with registers set. -/
def withRegs (rs : List (RegIx × Word)) : State := rs.foldl (fun s r => s.setReg r.1 r.2) State.reset

/-- The state one Step leaves when it fetches the word `w` from `s`; `s` itself if it answers no next state. -/
def after (w : Nat) (s : State) : State :=
  match step (s.withFetchWord 32 w) with
  | .next t => t
  | .fault _ => s
  | .refused _ => s

/-- 2.2: 7FFF + 0001 = 8000, N = 1. -/
theorem test_step_aluAdd_overflow :
    let t := after 0x201ABA28 (withRegs [(10, 0x7FFF), (11, 1)])
    t.readReg 10 = 0x8000 ∧ t.mpc = 0x28 := by decide

/-- 2.2: FFFF + 0001 = 0000, Z = 1. -/
theorem test_step_aluAdd_wrap :
    let t := after 0x401ABA28 (withRegs [(10, 0xFFFF), (11, 1)])
    t.readReg 10 = 0x0000 ∧ t.mpc = 0x28 := by decide

/-- 2.2: 1234 AND 0FFF = 0234. -/
theorem test_step_aluAnd_mask :
    (after 0x081A8A00 (withRegs [(10, 0x1234)])).readReg 10 = 0x0234 := by decide

/-- 2.2: FFFF passes, b ignored. -/
theorem test_step_aluPassA_ignoresB :
    (after 0x101ABA00 (withRegs [(10, 0xFFFF), (11, 0x1234)])).readReg 10 = 0xFFFF := by decide

/-- 2.2: inv 00F0 = FF0F, b ignored. -/
theorem test_step_aluInvA_ignoresB :
    (after 0x181ABA00 (withRegs [(10, 0x00F0), (11, 0xAAAA)])).readReg 10 = 0xFF0F := by decide

/-- 2.2: 0003 + FFFF = 0002, unshifted. -/
theorem test_step_shNone :
    (after 0x001ABA00 (withRegs [(10, 3), (11, 0xFFFF)])).readReg 10 = 0x0002 := by decide

/-- 2.2: 8000 right is 4000, N = 1 from f. -/
theorem test_step_shRight_negative :
    let t := after 0x321A0A28 (withRegs [(10, 0x8000)])
    t.readReg 10 = 0x4000 ∧ t.mpc = 0x28 := by decide

/-- 2.2: 0001 right is 0000, but Z = 0. -/
theorem test_step_shRight_notZero :
    let t := after 0x521A0A28 (withRegs [(10, 0x0001)])
    t.readReg 10 = 0x0000 ∧ t.mpc = 1 := by decide

/-- 2.2: 8000 left is 0000, Z = 0. -/
theorem test_step_shLeft_dropsBit :
    let t := after 0x541A0A28 (withRegs [(10, 0x8000)])
    t.readReg 10 = 0x0000 ∧ t.mpc = 1 := by decide

/-- 2.2: 4000 left is 8000, N = 0. -/
theorem test_step_shLeft_negative :
    let t := after 0x341A0A28 (withRegs [(10, 0x4000)])
    t.readReg 10 = 0x8000 ∧ t.mpc = 1 := by decide

/-- 2.7: 16000000 raises ReservedShift, MPC 0, CYCLES 0. -/
theorem test_step_shReserved_faults :
    after 0x16000000 State.reset =
      { State.reset.withFetchWord 32 0x16000000 with fault := some .reservedShift } := by decide

/-- 2.3: mbr := ac with R[1] = 0005. -/
theorem test_step_amuxReg :
    (after 0x11000100 (withRegs [(1, 5)])).mbr = 0x0005 := by decide

/-- 2.3: mbr := mbr + 1 with MBR = 0010. -/
theorem test_step_amuxMbr :
    (after 0x81006000 { State.reset with mbr := 0x0010 }).mbr = 0x0011 := by decide

/-- 2.3: mar := a; a := a + a with R[10] = 0003. -/
theorem test_step_marLatch_oldB :
    let t := after 0x009AAA00 (withRegs [(10, 3)])
    t.mar = 0x0003 ∧ t.readReg 10 = 0x0006 := by decide

/-- R142: MAR = 0 keeps MAR, whatever B. -/
theorem test_step_marHold :
    (after 0x0000B000 { withRegs [(11, 9)] with mar := 5 }).mar = 5 := by decide

/-- R143: MBR takes the shifted output, 2 * 1. -/
theorem test_step_mbrLatch :
    (after 0x05000600 State.reset).mbr = 0x0002 := by decide

/-- R143: MBR = 0 keeps MBR. -/
theorem test_step_mbrHold :
    (after 0x000AB000 { State.reset with mbr := 7 }).mbr = 7 := by decide

/-- 2.3: 0 := 1 raises ConstantWrite, R[5] = 0. -/
theorem test_step_regWrite_constant :
    let t := after 0x10150600 State.reset
    t.fault = some .constantWrite ∧ t.readReg 5 = 0 ∧ t.mpc = 0 := by decide

/-- L1.5: 101A0600 is a := 1. -/
theorem test_step_regWrite_scratch :
    (after 0x101A0600 State.reset).readReg 10 = 1 := by decide

/-- R144: ENC = 0 writes no register, whatever C. -/
theorem test_step_regHold :
    (after 0x100A0600 State.reset).regs = State.reset.regs := by decide

/-- 2.4: MPC 255 advances to 0. -/
theorem test_step_condNone_wrap :
    (after 0x00000012 { State.reset with mpc := 255 }).mpc = 0 := by decide

/-- 2.4: MPC 10, N = 1, to 40. -/
theorem test_step_condN_taken :
    (after 0x30000728 { State.reset with mpc := 10 }).mpc = 40 := by decide

/-- 2.4: MPC 10, N = 0, to 11. -/
theorem test_step_condN_notTaken :
    (after 0x30000528 { State.reset with mpc := 10 }).mpc = 11 := by decide

/-- 2.4: MPC 3, Z = 1, to 9. -/
theorem test_step_condZ_taken :
    (after 0x50000509 { State.reset with mpc := 3 }).mpc = 9 := by decide

/-- 2.4: MPC 3, Z = 0, to 4. -/
theorem test_step_condZ_notTaken :
    (after 0x50000709 { State.reset with mpc := 3 }).mpc = 4 := by decide

/-- 2.4: MPC 200 to 0. -/
theorem test_step_condJump_zero :
    (after 0x60000000 { State.reset with mpc := 200 }).mpc = 0 := by decide

/-- 2.4: MPC 255 to 255. -/
theorem test_step_condJump_self :
    (after 0x600000FF { State.reset with mpc := 255 }).mpc = 255 := by decide

/-- 2.6: RXS = 0008 and RXQ = [FF, 10], one Step takes one byte. -/
theorem test_step_memNone_polls :
    let t := after 0x000A0012 { State.reset with rxs := 8, rxq := [0xFF, 0x10] }
    t.cell 4092 = 0x00FF ∧ t.rxs = 0x000A ∧ t.rxq = [0x10] := by decide

/-- 2.3: R[10] = 1005, mar := a; rd captures 005. -/
theorem test_step_memRead_captures :
    let t := after 0x10C0A000 (withRegs [(10, 0x1005)])
    t.stgA = some 0x005 ∧ t.mbr = 0 ∧ t.mar = 0x1005 := by decide

/-- 2.6: reading 4092 gives 0041, and the poll of the same Step loads 42. -/
theorem test_step_memRead_acknowledges :
    let t := after 0x10400000 { State.reset with stgA := some 4092, rxs := 0x000A, mem := [(4092, 0x41)], rxq := [0x42] }
    t.mbr = 0x0041 ∧ t.cell 4092 = 0x0042 ∧ t.rxs = 0x000A ∧ t.rxq = [] ∧ t.stgA = none := by decide

/-- L1.4: mbr := 1; wr at cycle 2 stores the snapshot 0007. -/
theorem test_step_memWrite_snapshot :
    let t := after 0x11200600 { State.reset with stgA := some 3, stgB := some 7, mbr := 7 }
    t.mbr = 1 ∧ t.cell 3 = 7 ∧ t.stgA = none ∧ t.stgB = some 7 := by decide

/-- 2.6: 1234 to 4094 with TXS = 000A. -/
theorem test_step_memWrite_transmits :
    let t := after 0x10200000 { State.reset with stgA := some 4094, stgB := some 0x1234, txs := 0x000A }
    t.cell 4094 = 0x0034 ∧ t.txq = [0x34] ∧ t.txs = 0x000A := by decide

/-- L1.7: rd; wr at MPC 5 with CYCLES = 10. -/
theorem test_step_memRdWrHalt :
    let t := after 0x10600000 { State.reset with mpc := 5, cycles := 10, desired := .run }
    t.desired = .halt ∧ t.mpc = 6 ∧ t.cycles = 10 ∧ t.stgA = none ∧ t.mem = [] := by decide

/-- R114: the word 0 advances MPC and CYCLES and nothing else. -/
theorem test_step_nop :
    after 0x00000000 State.reset =
      { State.reset.withFetchWord 32 0 with mpc := 1, cycles := 1 } := by decide

/-- P1 slot 2: mar := 1; a := mbr; rd. -/
theorem test_step_microinstruction_P1 :
    let t := after 0x90DA6000 { State.reset with mbr := 0x1234, mpc := 2 }
    t.mar = 1 ∧ t.readReg 10 = 0x1234 ∧ t.stgA = some 1 ∧ t.mpc = 3 := by decide

/-- P2 slot 4: a := a + -1; if z then goto 6, with a = 1. -/
theorem test_step_microinstruction_loop :
    let t := after 0x401A7A06 { withRegs [(10, 1)] with mpc := 4 }
    t.readReg 10 = 0 ∧ t.mpc = 6 := by decide

/-- 2.7: a Step of an empty control store at MPC 0 is Fatal(0). -/
theorem test_step_emptySlot :
    step State.reset = .next { State.reset with fault := some (.fatal 0) } := rfl

/-- L1.8: Reset of registers that hold 1111. -/
theorem test_reset_values :
    let s := { State.reset with
      regs := Vector.replicate 16 0x1111, mar := 5, mbr := 6, stgA := some 3, stgB := some 4, mpc := 9, cycles := 77, rxs := 8 }
    let t := resetEngine s
    t.regs.toList = [0, 0, 0x0FB4, 0, 0, 0, 1, 0xFFFF, 0x0FFF, 0x00FF, 0, 0, 0, 0, 0, 0] ∧
    t.mar = 0 ∧ t.mbr = 0 ∧ t.stgA = none ∧ t.stgB = none ∧ t.mpc = 0 ∧ t.cycles = 0 ∧ t.rxs = 0 ∧ t.desired = .halt := by
  decide

/-! ## Witnesses: states and operands that meet the hypotheses of the obligations -/

/-- The reference machine under another policy. -/
def withParams (f : Params → Params) : State := { State.reset with params := f State.reset.params }

/-- SH3_POLICY = none. -/
def lenient : State := withParams fun p => { p with sh3Policy := .noShift, constWritePolicy := .discard }

/-- Words 0 in slots 0 to 3, a breakpoint on slot 3. -/
def breakAtThree : State :=
  { State.reset with
    cs := [(0, freshSlot 0), (1, freshSlot 0), (2, freshSlot 0), (3, { freshSlot 0 with bp := true })]
    mpc := 2, desired := .run }

/-- An enabled transmitter with a full TXQ of capacity 1, and a write cycle 2 to it in slot 1 (2.6). -/
def blocked : State :=
  { State.reset with
    params := { State.reset.params with txqCap := 1 }
    cs := [(1, freshSlot 0x10200000)], mpc := 1, txs := 0x000A, txq := [0x41], stgA := some 4094, stgB := some 0x1234 }

/-- The fields of a read alone, and of a write alone. -/
def readWord : MicroInstr := { MicroInstr.zero with rd := true, wr := false }

def writeWord : MicroInstr := { MicroInstr.zero with rd := false, wr := true }

/-- MAR addresses 4091, the last plain address, and STG_B holds 9. -/
def atPlain : State := { State.reset with mar := 0xFFFB, stgB := some 9 }

/-- A write cycle 2 of 5 at the last plain address. -/
def storing : State := { State.reset with stgA := some 4091, stgB := some 5 }

/-- The waiting loop after the host popped the byte. -/
def retried : State := { blocked with awaitingSpace := true, txq := [] }

/-- The word of slot 1 of `blocked`. -/
def writeOnly : MicroInstr := (freshSlot 0x10200000).mi

/-- A word of every row, as a term. -/
def oneOfEach : List Instr :=
  [.nop, .amuxReg { MicroInstr.zero with a := 10 },
    .amuxMbr { MicroInstr.zero with amux := .mbr },
    .condNone { MicroInstr.zero with addr := 0x12 },
    .condN { MicroInstr.zero with cond := .negative, addr := 0x12 },
    .condZ { MicroInstr.zero with cond := .zero, addr := 0x34 },
    .condJump { MicroInstr.zero with cond := .jump, addr := 255 },
    .aluAdd { MicroInstr.zero with b := 11, a := 10 },
    .aluAnd { MicroInstr.zero with alu := .and, b := 1, a := 2 },
    .aluPassA { MicroInstr.zero with alu := .passA, a := 3 },
    .aluInvA { MicroInstr.zero with alu := .invA, a := 3 },
    .shNone { MicroInstr.zero with c := 10, a := 6 },
    .shRight { MicroInstr.zero with sh := .right },
    .shLeft { MicroInstr.zero with sh := .left },
    .shReserved { MicroInstr.zero with sh := .reserved },
    .mbrHold { MicroInstr.zero with c := 10, b := 11 },
    .mbrLatch { MicroInstr.zero with mbr := true },
    .marHold { MicroInstr.zero with b := 11 },
    .marLatch { MicroInstr.zero with mar := true, b := 10 },
    .memNone { MicroInstr.zero with c := 10, addr := 0x12 },
    .memWrite { MicroInstr.zero with wr := true },
    .memRead { MicroInstr.zero with rd := true },
    .memRdWrHalt { MicroInstr.zero with rd := true, wr := true },
    .regHold { MicroInstr.zero with c := 3 },
    .regWrite { MicroInstr.zero with enc := true, c := 3 },
    .microinstruction { MicroInstr.zero with amux := .mbr, cond := .jump, alu := .invA, sh := .reserved, mbr := true, mar := true, rd := true, wr := true, enc := true, c := 15, b := 15, a := 15, addr := 255 }]

/-- A well-formed instruction of every constructor. -/
theorem test_witness_DecodeOfEncodeIsTheInstruction :
    oneOfEach.all (fun i => i.wellFormed) = true ∧ oneOfEach.length = 26 := by decide

theorem test_witness_IgnoredFieldsDoNotMatter :
    (MicroInstr.zero).mar = false ∧
    MicroInstr.halts { MicroInstr.zero with mar := true, b := 15 } = false ∧
    cycleCompletes { MicroInstr.zero with mar := true, b := 15, alu := .passA } State.reset = true ∧
    cycleCompletes { MicroInstr.zero with mar := true, b := 15, alu := .invA } State.reset = true := by decide

theorem test_witness_StepRunsTheFetchedInstruction :
    breakAtThree.fault = none ∧
    ControlStore.slot { breakAtThree with mpc := 3 }.cs 3 = some { mi := decodeFields 0, bp := true } := by decide

theorem test_witness_FetchOfAnEmptySlotIsFatal :
    let s := { State.reset with mpc := 255, desired := .run }
    s.fault = none ∧ ControlStore.slot s.cs s.mpc = none ∧ s.desired = .run ∧ s.awaitingSpace = false := by decide

theorem test_witness_RecordedFaultStaysUntilReset :
    { State.reset with fault := some (.fatal 0) }.fault = some (.fatal 0) ∧
    Event.step ≠ .host .reset ∧ Event.turn ≠ .host .reset ∧ Event.host .zeroMemory ≠ .host .reset := by decide

/-- A reserved shift. -/
theorem test_witness_ModelFaultsInSubStepOrder_reserved :
    State.reset.fault = none ∧ (Instr.shReserved MicroInstr.zero).control.sh = .reserved ∧
    State.reset.params.sh3Policy = .fault := by decide

/-- The last constant register. -/
theorem test_witness_ModelFaultsInSubStepOrder_constant :
    let m := (Instr.regWrite { MicroInstr.zero with c := 9 }).control
    State.reset.fault = none ∧ m.sh ≠ .reserved ∧ m.enc = true ∧ m.c ∈ State.reset.params.regIndex.constants ∧
    State.reset.params.constWritePolicy = .fault := by decide

/-- A write cycle 2 without a snapshot. -/
theorem test_witness_ModelFaultsInSubStepOrder_stale :
    let m := (Instr.memWrite MicroInstr.zero).control
    let s := { State.reset with stgA := some 1 }
    s.fault = none ∧ m.sh ≠ .reserved ∧ m.enc = false ∧ m.rd = false ∧ m.wr = true ∧ s.stgA.isSome = true ∧ s.stgB = none := by decide

/-- A full TXQ. -/
theorem test_witness_ModelFaultsInSubStepOrder_held :
    let m := (Instr.memWrite MicroInstr.zero).control
    blocked.fault = none ∧ m.sh ≠ .reserved ∧ m.enc = false ∧ m.rd = false ∧ m.wr = true ∧ blocked.stgB ≠ none ∧
    blocked.stgA = some 4094 ∧ (4094 : Addr) ≠ blocked.params.rxStatusAddr ∧ (4094 : Addr) ≠ blocked.params.txStatusAddr ∧
    (4094 : Addr) = blocked.params.txDataAddr ∧ blocked.txs.getLsbD blocked.params.enableBit.val = true ∧
    blocked.txq.length = blocked.params.txqCap := by decide

/-- The same store with room in TXQ. -/
theorem test_witness_ModelFaultsInSubStepOrder_runs :
    let m := (Instr.memWrite MicroInstr.zero).control
    let s := { blocked with txq := [] }
    s.fault = none ∧ m.sh ≠ .reserved ∧ m.enc = false ∧ s.stgB ≠ none ∧ s.stgA = some 4094 ∧ s.txq.length ≠ s.params.txqCap := by decide

/-- Every instruction runs to its end in one state; two of the terms are a read with a write. -/
theorem test_witness_CompletedStepOfEveryInstruction :
    oneOfEach.all (fun i => cycleCompletes i.control lenient) = true ∧
    (oneOfEach.filter fun i => MicroInstr.halts i.control).length = 2 := by decide

/-- A Step that completes, a halt, a fault and a Hold. -/
theorem test_witness_CyclesCountCompletedSteps :
    (∃ t, exec .nop State.reset = .next t) ∧ (∃ t, exec (.memRdWrHalt MicroInstr.zero) State.reset = .next t) ∧
    (∃ t, exec (.shReserved MicroInstr.zero) State.reset = .next t) ∧ (∃ t, exec (.memWrite MicroInstr.zero) blocked = .next t) := 
  ⟨⟨_, rfl⟩, ⟨_, rfl⟩, ⟨_, rfl⟩, ⟨_, rfl⟩⟩

theorem test_witness_AluAddIsSumModulo :
    let m := { MicroInstr.zero with enc := true, mbr := true, c := 15, b := 7, a := 7, cond := .negative, addr := 255 }
    cycleCompletes { m with alu := .add } State.reset = true ∧ MicroInstr.halts m = false := by decide

theorem test_witness_AluAndIsBitwise :
    let m := { MicroInstr.zero with enc := true, mbr := true, c := 15, b := 7, a := 7, cond := .negative, addr := 255 }
    cycleCompletes { m with alu := .and } State.reset = true ∧ MicroInstr.halts m = false := by decide

theorem test_witness_AluPassAIsTheABus :
    let m := { MicroInstr.zero with enc := true, mbr := true, c := 15, b := 7, a := 7, cond := .negative, addr := 255 }
    cycleCompletes { m with alu := .passA } State.reset = true ∧ MicroInstr.halts m = false := by decide

theorem test_witness_AluInvAIsTheComplement :
    let m := { MicroInstr.zero with enc := true, mbr := true, c := 15, b := 7, a := 7, cond := .negative, addr := 255 }
    cycleCompletes { m with alu := .invA } State.reset = true ∧ MicroInstr.halts m = false := by decide

theorem test_witness_ShiftNoneKeepsTheResult :
    let m := { MicroInstr.zero with alu := .passA, enc := true, mbr := true, c := 15, a := 7, cond := .negative, addr := 255 }
    cycleCompletes { m with sh := .none } State.reset = true ∧ MicroInstr.halts m = false := by decide

theorem test_witness_ShiftRightFillsWithZero :
    let m := { MicroInstr.zero with alu := .passA, enc := true, mbr := true, c := 15, a := 7, cond := .negative, addr := 255 }
    cycleCompletes { m with sh := .right } State.reset = true ∧ MicroInstr.halts m = false := by decide

theorem test_witness_ShiftLeftDropsTheTopBit :
    let m := { MicroInstr.zero with alu := .passA, enc := true, mbr := true, c := 15, a := 7, cond := .negative, addr := 255 }
    cycleCompletes { m with sh := .left } State.reset = true ∧ MicroInstr.halts m = false := by decide

/-- Both policies. -/
theorem test_witness_ReservedShiftFollowsItsPolicy :
    State.reset.params.sh3Policy = .fault ∧ State.reset.fault = none ∧ lenient.params.sh3Policy = .noShift ∧
    cycleCompletes { MicroInstr.zero with sh := .reserved } lenient = true ∧ MicroInstr.halts MicroInstr.zero = false := by decide

theorem test_witness_FlagsAreOfTheResultBeforeTheShift :
    let m := { MicroInstr.zero with alu := .passA, a := 7, sh := .right, cond := .negative, addr := 255 }
    cycleCompletes m State.reset = true ∧ MicroInstr.halts m = false := by decide

theorem test_witness_CondNoneFallsThrough :
    let m := { MicroInstr.zero with addr := 254 }
    let s := { State.reset with mpc := 255 }
    cycleCompletes { m with cond := .none } s = true ∧ MicroInstr.halts m = false ∧
    s.mpc = 255 ∧ s.fault = none ∧ ControlStore.slot s.cs 0 = none := by decide

theorem test_witness_CondNBranchesOnNegative :
    let m := { MicroInstr.zero with addr := 254 }
    let s := { State.reset with mpc := 255 }
    cycleCompletes { m with cond := .negative } s = true ∧ MicroInstr.halts m = false := by decide

theorem test_witness_CondZBranchesOnZero :
    let m := { MicroInstr.zero with addr := 254 }
    let s := { State.reset with mpc := 255 }
    cycleCompletes { m with cond := .zero } s = true ∧ MicroInstr.halts m = false := by decide

theorem test_witness_CondJumpTakesTheTarget :
    let m := { MicroInstr.zero with addr := 254 }
    let s := { State.reset with mpc := 255 }
    cycleCompletes { m with cond := .jump } s = true ∧ MicroInstr.halts m = false ∧
    s.fault = none ∧ ControlStore.slot s.cs m.addr = none := by decide

/-- A breakpoint, a clear flag and an Empty slot. -/
theorem test_witness_BreakpointHaltsAtTheAdvancedMpc_flags :
    let t := after 0 breakAtThree
    cycleCompletes MicroInstr.zero breakAtThree = true ∧ ControlStore.slot breakAtThree.cs t.mpc = some { freshSlot 0 with bp := true } ∧
    ControlStore.slot breakAtThree.cs 1 = some (freshSlot 0) ∧ ControlStore.slot breakAtThree.cs 4 = none := by decide

/-- A turn that reaches slot 3. -/
theorem test_witness_BreakpointHaltsAtTheAdvancedMpc_turn :
    breakAtThree.fault = none ∧ breakAtThree.awaitingSpace = false ∧ breakAtThree.desired = .run ∧
    ControlStore.slot breakAtThree.cs 2 = some (freshSlot 0) ∧ nameOf (freshSlot 0).mi = .nop ∧
    MicroInstr.halts Instr.nop.control = false ∧ exec .nop breakAtThree = .next (receivePoll (breakpointCheck
      { breakAtThree with mpc := 3, cycles := 1 })) ∧
    breakpointAt (receivePoll (breakpointCheck { breakAtThree with mpc := 3, cycles := 1 })) = true := 
  ⟨by decide, by decide, by decide, by decide, by decide, by decide, rfl, by decide⟩

theorem test_witness_OperandsAndAddressLatch :
    cycleCompletes { MicroInstr.zero with amux := .reg } State.reset = true ∧
    cycleCompletes { MicroInstr.zero with amux := .mbr } State.reset = true ∧
    cycleCompletes { MicroInstr.zero with mar := true } State.reset = true ∧
    cycleCompletes { MicroInstr.zero with mar := false } State.reset = true ∧ MicroInstr.halts MicroInstr.zero = false := by decide

/-- No request, both read cycles, both write cycles, at the last plain address. -/
theorem test_witness_MbrLatchTakesTheOutput_latch :
    let rd := { MicroInstr.zero with rd := true, mbr := true }
    let wr := { MicroInstr.zero with wr := true, mbr := true }
    let s := { State.reset with stgA := some 4091, stgB := some 5 }
    cycleCompletes { MicroInstr.zero with mbr := true } State.reset = true ∧ cycleCompletes rd State.reset = true ∧
    cycleCompletes rd s = true ∧ cycleCompletes wr State.reset = true ∧ cycleCompletes wr s = true ∧
    (4091 : Addr) ∉ s.params.deviceAddrs ∧ Memory.wf s.mem = true ∧ MicroInstr.halts rd = false ∧ MicroInstr.halts wr = false := by decide

/-- Held, with and without a read cycle 2. -/
theorem test_witness_MbrLatchTakesTheOutput_hold :
    let rd := { MicroInstr.zero with rd := true }
    cycleCompletes { MicroInstr.zero with mbr := false } State.reset = true ∧
    cycleCompletes rd { State.reset with stgA := some 4091 } = true ∧ MicroInstr.halts rd = false := by decide

/-- A scratch register. -/
theorem test_witness_RegisterWriteFollowsEncAndC_scratch :
    let m := { MicroInstr.zero with c := 10, mbr := true }
    cycleCompletes { m with enc := true } State.reset = true ∧ MicroInstr.halts m = false ∧
    (10 : RegIx) ∉ State.reset.params.regIndex.constants ∧ m.mbr = true ∧ m.rd = false := by decide

/-- A constant register under discard. -/
theorem test_witness_RegisterWriteFollowsEncAndC_discard :
    let m := { MicroInstr.zero with c := 5 }
    cycleCompletes { m with enc := true } lenient = true ∧ cycleCompletes { m with enc := false } lenient = true ∧
    MicroInstr.halts m = false ∧ m.c ∈ lenient.params.regIndex.constants ∧ lenient.params.constWritePolicy = .discard := by decide

/-- A constant register under fault. -/
theorem test_witness_RegisterWriteFollowsEncAndC_fault :
    let m := { MicroInstr.zero with c := 5 }
    m.c ∈ State.reset.params.regIndex.constants ∧ State.reset.params.constWritePolicy = .fault ∧
    shiftFaults m State.reset = false ∧ State.reset.fault = none := by decide

theorem test_witness_ConstantRegistersAreNeverWritten :
    (∃ t, exec (.regWrite { MicroInstr.zero with c := 5 }) lenient = .next t) ∧ (∃ t, step breakAtThree = .next t) ∧
    (5 : RegIx) ∈ lenient.params.regIndex.constants ∧ State.reset.params.wf = true ∧ constantsHold State.reset = true := 
  ⟨⟨_, rfl⟩, ⟨_, rfl⟩, by decide, by decide, by decide⟩

/-- The poll takes a byte, and takes none. -/
theorem test_witness_RequestlessStepLeavesTheBusAlone :
    let s := { State.reset with rxs := 8, rxq := [0xFF] }
    cycleCompletes { MicroInstr.zero with rd := false, wr := false } s = true ∧ pollTakes s = true ∧
    cycleCompletes { MicroInstr.zero with rd := false, wr := false } State.reset = true ∧ pollTakes State.reset = false := by decide

/-- Cycle 1 and cycle 2. -/
theorem test_witness_ReadRequestTakesTwoCycles :
    let m := { MicroInstr.zero with rd := true, wr := false }
    cycleCompletes m State.reset = true ∧ State.reset.stgA = none ∧
    cycleCompletes m { State.reset with stgA := some 4095 } = true := by decide

/-- The four device addresses and the plain one below them. -/
theorem test_witness_ReadCycleTwoOfEveryAddress_address :
    let m := { MicroInstr.zero with rd := true, wr := false }
    ([4091, 4092, 4093, 4094, 4095] : List Addr).all (fun a => cycleCompletes m { State.reset with stgA := some a }) = true ∧
    State.reset.params.wf = true ∧ (4091 : Addr) ∉ State.reset.params.deviceAddrs := by decide

/-- Reading receiver data with and without a byte waiting, and disabled. -/
theorem test_witness_ReadCycleTwoOfEveryAddress_receive :
    let s := { State.reset with stgA := some 4092, rxs := 0x000A }
    let r := { s with rxq := [0x42] }
    s.rxEnabled = true ∧ s.rxReady = true ∧ s.rxq = [] ∧ r.rxEnabled = true ∧ r.rxReady = true ∧ r.rxq = 0x42 :: [] ∧
    Memory.wf r.mem = true ∧ State.reset.rxEnabled = false := by decide

/-- Cycle 1 and cycle 2. -/
theorem test_witness_WriteRequestTakesTwoCycles_cycles :
    let m := { MicroInstr.zero with rd := false, wr := true }
    let s := { State.reset with stgA := some 4091, stgB := some 5 }
    cycleCompletes m State.reset = true ∧ State.reset.stgA = none ∧ cycleCompletes m s = true ∧
    (4091 : Addr) ∉ s.params.deviceAddrs ∧ Memory.wf s.mem = true := by decide

/-- Stale, and held. -/
theorem test_witness_WriteRequestTakesTwoCycles_stops :
    let s := { State.reset with stgA := some 1 }
    shiftFaults MicroInstr.zero s = false ∧ constantWriteFaults MicroInstr.zero s = false ∧ s.fault = none ∧ s.stgA ≠ none ∧ s.stgB = none ∧
    shiftFaults MicroInstr.zero blocked = false ∧ constantWriteFaults MicroInstr.zero blocked = false ∧ blocked.stgA = some 4094 ∧
    blocked.stgB ≠ none ∧ blocked.transmitBlocked 4094 = true := by decide

/-- Every address, another value than the enable code. -/
theorem test_witness_WriteCycleTwoOfEveryAddress_address :
    let m := { MicroInstr.zero with rd := false, wr := true }
    ([4091, 4092, 4093, 4094, 4095] : List Addr).all (fun a => cycleCompletes m { State.reset with stgA := some a, stgB := some 7 }) = true ∧
    State.reset.params.wf = true ∧ Memory.wf State.reset.mem = true ∧ pollTakes State.reset = false ∧
    (4091 : Addr) ∉ State.reset.params.deviceAddrs ∧ (7 : Word) ≠ State.reset.params.enableCode := by decide

/-- Enabling the receiver, with and without a byte waiting. -/
theorem test_witness_WriteCycleTwoOfEveryAddress_enable :
    let m := { MicroInstr.zero with rd := false, wr := true }
    let s := { State.reset with stgA := some 4093, stgB := some 0x0008 }
    let r := { s with rxq := [0xFF] }
    cycleCompletes m s = true ∧ (0x0008 : Word) = s.params.enableCode ∧ s.rxq = [] ∧ cycleCompletes m r = true ∧ r.rxq ≠ [] := by decide

/-- Transmitting, and held. -/
theorem test_witness_WriteCycleTwoOfEveryAddress_transmit :
    let m := { MicroInstr.zero with rd := false, wr := true }
    let s := { State.reset with stgA := some 4094, stgB := some 0x1234, txs := 0x000A }
    cycleCompletes m s = true ∧ s.txEnabled = true ∧ State.reset.txEnabled = false ∧
    blocked.params.wf = true ∧ shiftFaults m blocked = false ∧ constantWriteFaults m blocked = false ∧
    blocked.stgA = some blocked.params.txDataAddr ∧ blocked.stgB ≠ none ∧ blocked.txEnabled = true ∧
    blocked.txq.length = blocked.params.txqCap := by decide

/-- The three policies. -/
theorem test_witness_ReadWithWriteHalts :
    let m := { MicroInstr.zero with rd := true, wr := true }
    let d := withParams fun p => { p with rdwrHaltPoint := .discardAll }
    let c := withParams fun p => { p with rdwrHaltPoint := .complete }
    cycleCompletes m State.reset = true ∧ State.reset.params.rdwrHaltPoint = .afterSequencing ∧ State.reset.awaitingSpace = false ∧
    cycleCompletes m d = true ∧ d.params.rdwrHaltPoint = .discardAll ∧
    cycleCompletes m c = true ∧ c.params.rdwrHaltPoint = .complete := by decide

/-- A byte is taken, and none. -/
theorem test_witness_ReceivePollTakesOneByte :
    let s := { State.reset with rxs := 8, rxq := [0xFF] }
    s.rxs.getLsbD s.params.enableBit.val = true ∧ s.rxs.getLsbD s.params.readyBit.val = false ∧ s.rxq = 0xFF :: [] ∧
    Memory.wf s.mem = true ∧ State.reset.rxs.getLsbD State.reset.params.enableBit.val = false := by decide

/-- At the last plain address. -/
theorem test_witness_TwoReadStepsLoadTheWord :
    atPlain.stgA = none ∧ cycleCompletes readWord atPlain = true ∧ exec (.memRead MicroInstr.zero) atPlain = .next (afterCycle readWord atPlain) ∧
    cycleCompletes readWord (afterCycle readWord atPlain) = true ∧ atPlain.mar.extractLsb' 0 12 ∉ atPlain.params.deviceAddrs := 
  ⟨by decide, by decide, rfl, by decide, by decide⟩

/-- At the last plain address. -/
theorem test_witness_TwoWriteStepsStoreTheSnapshot :
    atPlain.stgA = none ∧ cycleCompletes writeWord atPlain = true ∧ exec (.memWrite MicroInstr.zero) atPlain = .next (afterCycle writeWord atPlain) ∧
    cycleCompletes writeWord (afterCycle writeWord atPlain) = true ∧ atPlain.mar.extractLsb' 0 12 ∉ atPlain.params.deviceAddrs ∧
    Memory.wf atPlain.mem = true := 
  ⟨by decide, by decide, rfl, by decide, by decide, by decide⟩

/-- A read after a write. -/
theorem test_witness_MixedRequestsShareTheStaging_writeRead :
    atPlain.stgA = none ∧ cycleCompletes writeWord atPlain = true ∧ exec (.memWrite MicroInstr.zero) atPlain = .next (afterCycle writeWord atPlain) ∧
    cycleCompletes readWord (afterCycle writeWord atPlain) = true ∧ atPlain.mar.extractLsb' 0 12 ∉ atPlain.params.deviceAddrs := 
  ⟨by decide, by decide, rfl, by decide, by decide⟩

/-- A write after a read. -/
theorem test_witness_MixedRequestsShareTheStaging_readWrite :
    atPlain.stgA = none ∧ cycleCompletes readWord atPlain = true ∧ exec (.memRead MicroInstr.zero) atPlain = .next (afterCycle readWord atPlain) ∧
    cycleCompletes writeWord (afterCycle readWord atPlain) = true ∧ atPlain.mar.extractLsb' 0 12 ∉ atPlain.params.deviceAddrs ∧
    atPlain.stgB = some 9 ∧ Memory.wf atPlain.mem = true := 
  ⟨by decide, by decide, rfl, by decide, by decide, by decide, by decide⟩

/-- A write after a read without a snapshot. -/
theorem test_witness_MixedRequestsShareTheStaging_stale :
    State.reset.stgA = none ∧ State.reset.stgB = none ∧ State.reset.fault = none ∧ cycleCompletes readWord State.reset = true ∧
    exec (.memRead MicroInstr.zero) State.reset = .next (afterCycle readWord State.reset) ∧
    shiftFaults MicroInstr.zero (afterCycle readWord State.reset) = false ∧
    constantWriteFaults MicroInstr.zero (afterCycle readWord State.reset) = false := 
  ⟨by decide, by decide, by decide, by decide, rfl, by decide, by decide⟩

/-- A TXQ of capacity 1. -/
theorem test_witness_HeldStepRunsOnceTheHostPops :
    let slot := freshSlot 0x10200000
    blocked.fault = none ∧ ControlStore.slot blocked.cs blocked.mpc = some slot ∧ shiftFaults slot.mi blocked = false ∧
    constantWriteFaults slot.mi blocked = false ∧ writeIsHeld slot.mi blocked = true ∧ 1 ≤ blocked.params.txqCap := by decide

/-- Every instruction answers a next state, and most meet each clause. -/
theorem test_witness_FrameOfEveryInstruction :
    oneOfEach.all (fun i => match exec i lenient with | .next _ => true | .fault _ => false | .refused _ => false) = true ∧
    (oneOfEach.filter fun i => !i.control.enc).length = 24 ∧ (oneOfEach.filter fun i => !i.control.mar).length = 24 ∧
    (oneOfEach.filter fun i => !i.control.mbr && !MicroInstr.reads i.control).length = 23 ∧
    (oneOfEach.filter fun i => !MicroInstr.writes i.control).length = 25 := by decide

/-- A store, the cell below it and the receiver data cell. -/
theorem test_witness_MemoryFrameOfEveryInstruction :
    exec (.memWrite MicroInstr.zero) storing = .next (afterCycle writeWord storing) ∧ storing.stgA ≠ some 4090 ∧
    (4090 : Addr) ≠ storing.params.rxDataAddr ∧ storing.stgA ≠ some 4092 ∧ (afterCycle writeWord storing).rxq = storing.rxq := 
  ⟨rfl, by decide, by decide, by decide, by decide⟩

/-- A breakpoint, a read with a write, an Empty slot. -/
theorem test_witness_DesiredChangesOnlyByBreakpointOrHalt :
    (∃ t, step breakAtThree = .next t) ∧ (∃ t, step (State.reset.withFetchWord 32 0x10600000) = .next t) ∧
    (∃ t, step State.reset = .next t) := 
  ⟨⟨_, rfl⟩, ⟨_, rfl⟩, ⟨_, rfl⟩⟩

theorem test_witness_OnlyTheHostChangesTheControlStore :
    ∀ e ∈ [Event.step, .turn, .host .reset, .host (.loadMemory [5]), .host (.rxPush 1)],
    (∀ ws, e ≠ .host (.loadControlStore ws)) ∧ e ≠ .host .zeroControlStore ∧ ∀ m, e ≠ .host (.toggleBreakpoint m) := by
  simp

/-- Both policies, the first and the last scratch register. -/
theorem test_witness_ResetSetsTheListedState :
    State.reset.params.wf = true ∧ (10 : RegIx) ∉ State.reset.params.regIndex.roles ∧
    (15 : RegIx) ∉ State.reset.params.regIndex.roles ∧ State.reset.params.resetUnlisted = .zero ∧
    (withParams fun p => { p with resetUnlisted := .preserve }).params.wf = true ∧
    (withParams fun p => { p with resetUnlisted := .preserve }).params.resetUnlisted = .preserve := by decide

theorem test_witness_ResetLeavesTheRestAlone :
    breakAtThree.awaitingSpace = false := by decide

/-- 257 words, 256 words, the last slot, no word. -/
theorem test_witness_LoadControlStoreInstallsDecodedWords :
    256 < (List.replicate 257 (0 : ControlWord)).length ∧ (List.replicate 256 (0 : ControlWord)).length ≤ 256 ∧
    (List.replicate 256 (0 : ControlWord))[(255 : MicroAddr).toNat]? = some 0 ∧
    ([] : List ControlWord).length ≤ (0 : MicroAddr).toNat := by
  rw [List.length_replicate, List.length_replicate, List.getElem?_replicate]
  decide

/-- 4097 words, 4096 words, the last cell, no word. -/
theorem test_witness_LoadMemoryInstallsPlainCells :
    4096 < (List.replicate 4097 (0 : Word)).length ∧ (List.replicate 4096 (0 : Word)).length ≤ 4096 ∧
    Memory.wf State.reset.mem = true ∧ (List.replicate 4096 (7 : Word))[(4095 : Addr).toNat]? = some 7 ∧
    ([] : List Word).length ≤ (0 : Addr).toNat := by
  rw [List.length_replicate, List.length_replicate, List.getElem?_replicate]
  decide

theorem test_witness_ZeroingByTheHost :
    blocked.fault = none := by decide

/-- A Defined slot and an Empty one. -/
theorem test_witness_ToggleFlipsOneFlag :
    ControlStore.slot breakAtThree.cs 3 = some { freshSlot 0 with bp := true } ∧ (2 : MicroAddr) ≠ 3 ∧
    ControlStore.slot breakAtThree.cs 255 = none := by decide

/-- No statement at all, with every unused field filled. -/
theorem test_witness_AssemblyRuleFillsUnusedFields_empty :
    let m := { MicroInstr.zero with amux := .mbr, alu := .add, sh := .left, a := 15, b := 15, c := 15, addr := 255 }
    m.enc = false ∧ m.cond = .none ∧ m.amux = .mbr ∧ m.mbr = false ∧ m.cond ≠ .negative ∧ m.cond ≠ .zero ∧ m.mar = false ∧
    m.rd = false ∧ m.wr = false ∧ m ≠ MicroInstr.zero := by decide

/-- An unused output with MAR, and a used one that B does not reach. -/
theorem test_witness_AssemblyRuleFillsUnusedFields_used :
    let m := { MicroInstr.zero with mar := true, rd := true, b := 11, a := 15, c := 15 }
    let n := { MicroInstr.zero with alu := .passA, enc := true, b := 15, cond := .jump, addr := 255 }
    m.mbr = false ∧ m.enc = false ∧ m.cond = .none ∧ m.mar = true ∧ m.rd = true ∧ n.mar = false ∧ n.alu = .passA ∧ n.cond = .jump := by decide

/-- Halted, held, running. -/
theorem test_witness_RunLoopTurns_turns :
    State.reset.awaitingSpace = false ∧ State.reset.desired = .halt ∧
    blocked.awaitingSpace = false ∧ setDesired .run blocked = { blocked with desired := .run } ∧
    stepHeld (setDesired .run blocked) = true ∧ stepHeld breakAtThree = false ∧
    step breakAtThree = .next (afterCycle MicroInstr.zero breakAtThree) ∧ (afterCycle MicroInstr.zero breakAtThree).fault = none := 
  ⟨by decide, by decide, by decide, by decide, by decide, by decide, rfl, by decide⟩

/-- Aborted by a raised and by a recorded fault. -/
theorem test_witness_RunLoopTurns_aborts :
    step { State.reset with desired := .run } = .next { State.reset with desired := .run, fault := some (.fatal 0) } ∧
    { blocked with fault := some (.fatal 0) }.fault = some (.fatal 0) := 
  ⟨rfl, rfl⟩

/-- Waiting and retrying. -/
theorem test_witness_RunLoopTurns_waits :
    { blocked with awaitingSpace := true }.awaitingSpace = true ∧ blocked.txq.length = blocked.params.txqCap ∧
    retried.awaitingSpace = true ∧ retried.txq.length ≠ retried.params.txqCap ∧ stepHeld retried = false ∧
    step { retried with awaitingSpace := false } = .next (afterCycle writeOnly { retried with awaitingSpace := false }) ∧
    (afterCycle writeOnly { retried with awaitingSpace := false }).fault = none := 
  ⟨by decide, by decide, by decide, by decide, by decide, rfl, by decide⟩

/-- Each clause. -/
theorem test_witness_SerialQueuesAreFirstInFirstOut :
    let full := { State.reset with rxq := [0x41], params := { State.reset.params with rxqCap := 1 } }
    State.reset.rxq.length < State.reset.params.rxqCap ∧ full.params.rxqCap ≤ full.rxq.length ∧
    blocked.txq = 0x41 :: [] ∧ State.reset.txq = [] := by decide

theorem test_witness_StepKeepsTheInvariant :
    State.wf breakAtThree = true ∧ step breakAtThree = .next (afterCycle MicroInstr.zero breakAtThree) ∧ State.wf blocked = true := 
  ⟨by decide, rfl, by decide⟩

/-- The smallest capacities. -/
theorem test_witness_ResetMeetsTheInvariant :
    referenceParams.wf = true ∧ ({ referenceParams with rxqCap := 1, txqCap := 1 } : Params).wf = true := by decide

theorem test_witness_EveryInterleavingKeepsTheInvariant :
    State.wf blocked = true ∧ State.wf State.reset = true := by decide

end Sys2Proof.Tests
end

/-! PROOFS. The statements of 10_state.md: what no Step changes (constant registers, run state, control store), the
invariant of a Step (R22 to R41), and the properties that every transition of the engine keeps. -/

namespace Sys2Proof.Machine

/-! ## The next state of a Step -/

/-- What an instruction that answers `t` did: it raised a fault, was held, or ran to its end. -/
theorem runWord_next_inv {m : MicroInstr} {s t : State} (h : runWord m s = .next t) :
    (∃ f, t = raise f s) ∨ t = s ∨ (cycleCompletes m s = true ∧ t = afterCycle m s) := by
  rcases runWord_next m s with ⟨hc, he⟩ | ⟨-, f, he⟩ | ⟨-, he⟩ <;> cases he.symm.trans h
  · exact .inr (.inr ⟨hc, rfl⟩)
  · exact .inl ⟨f, rfl⟩
  · exact .inr (.inl rfl)

/-- What a Step that answers `t` did: it raised a fault, was held, or ran the word in slot MPC to its end. -/
theorem step_next_inv {s t : State} (h : step s = .next t) :
    (∃ f, t = raise f s) ∨ t = s ∨
    ∃ slot, ControlStore.slot s.cs s.mpc = some slot ∧ cycleCompletes slot.mi s = true ∧ t = afterCycle slot.mi s := by
  rcases step_cases s with ⟨f, -, he⟩ | ⟨-, -, he⟩ | ⟨slot, -, hslot, he⟩
  · cases he.symm.trans h
  · cases he.symm.trans h
    exact .inl ⟨_, rfl⟩
  · rcases runWord_next_inv (he.symm.trans h) with hf | hs | ⟨hc, hs⟩
    · exact .inl hf
    · exact .inr (.inl hs)
    · exact .inr (.inr ⟨slot, hslot, hc, hs⟩)

/-- A Step leaves the parameters, the control store with its flags and the run state. -/
theorem step_frame {s t : State} (h : step s = .next t) :
    t.params = s.params ∧ t.cs = s.cs ∧ t.runState = s.runState := by
  rcases step_next_inv h with ⟨f, rfl⟩ | rfl | ⟨slot, -, -, rfl⟩
  · simp
  · simp
  · obtain ⟨hparams, hcs, hrun, -⟩ := stepFrame_afterCycle slot.mi s
    exact ⟨hparams, hcs, hrun⟩

/-! ## Constant registers (R23) -/

theorem afterDatapath_readReg_constant (m : MicroInstr) {s : State} {c : RegIx}
    (hc : c ∈ s.params.regIndex.constants) : (afterDatapath m s).readReg c = s.readReg c := by
  have hkept : writesRegister m s c = false := by simp [writesRegister, State.isConstantReg, hc]
  simp [afterDatapath_readReg, hkept]

/-- The halt leaves the register file of the datapath, or that of the start. -/
theorem rdWrHalt_regs (start s : State) :
    (rdWrHalt start s).regs = s.regs ∨ (rdWrHalt start s).regs = start.regs := by
  cases h : s.params.rdwrHaltPoint with
  | afterSequencing => rw [rdWrHalt_afterSequencing h]; exact .inl rfl
  | discardAll => rw [rdWrHalt_discardAll h]; exact .inr rfl
  | complete => rw [rdWrHalt_complete h, endOfStep_regs]; exact .inl rfl

theorem afterCycle_readReg_constant (m : MicroInstr) {s : State} {c : RegIx}
    (hc : c ∈ s.params.regIndex.constants) : (afterCycle m s).readReg c = s.readReg c := by
  have hdatapath := afterDatapath_readReg_constant m hc
  unfold afterCycle
  split
  · rcases rdWrHalt_regs s (afterDatapath m s) with h | h
    · exact (readReg_congr h c).trans hdatapath
    · exact readReg_congr h c
  · exact (readReg_congr (by simp) c).trans hdatapath

theorem runWord_readReg_constant {m : MicroInstr} {s t : State} (h : runWord m s = .next t) {c : RegIx}
    (hc : c ∈ s.params.regIndex.constants) : t.readReg c = s.readReg c := by
  rcases runWord_next_inv h with ⟨f, rfl⟩ | rfl | ⟨-, rfl⟩
  · rfl
  · rfl
  · exact afterCycle_readReg_constant m hc

theorem step_readReg_constant {s t : State} (h : step s = .next t) {c : RegIx}
    (hc : c ∈ s.params.regIndex.constants) : t.readReg c = s.readReg c := by
  rcases step_next_inv h with ⟨f, rfl⟩ | rfl | ⟨slot, -, -, rfl⟩
  · rfl
  · rfl
  · exact afterCycle_readReg_constant slot.mi hc

/-- Whether the constant registers hold their values depends on the parameters and those five registers only. -/
theorem constantsHold_congr {s t : State} (hp : t.params = s.params)
    (hr : ∀ c ∈ s.params.regIndex.constants, t.readReg c = s.readReg c) : constantsHold t = constantsHold s := by
  simp only [RegIndex.constants, List.mem_cons, List.not_mem_nil, or_false, forall_eq_or_imp, forall_eq] at hr
  obtain ⟨hzero, hone, hmone, hamask, hsmask⟩ := hr
  simp only [constantsHold, hp, hzero, hone, hmone, hamask, hsmask]

theorem constantsHold_step {s t : State} (h : step s = .next t) : constantsHold t = constantsHold s :=
  constantsHold_congr (step_frame h).1 fun _ hc => step_readReg_constant h hc

theorem resetEngine_readReg (s : State) (i : RegIx) :
    (resetEngine s).readReg i = resetRegister s.params i (s.readReg i) := by
  simp [State.readReg, resetEngine, Vector.get_eq_getElem]

/-- Reset gives the constant registers their values: no two roles share an index (R290, D2). -/
theorem constantsHold_resetEngine {s : State} (h : s.params.wf = true) : constantsHold (resetEngine s) = true := by
  obtain ⟨hroles, -⟩ := (params_wf_iff _).mp h
  simp only [RegIndex.roles, List.nodup_cons, List.mem_cons, List.not_mem_nil, or_false, not_or] at hroles
  simp only [constantsHold_iff, resetEngine_readReg, resetEngine_params, resetRegister]
  grind

/-! ## The parts of the invariant, operation by operation -/

/-- Reading the receiver data address turns "data ready" into "enabled, pending" and leaves the other values (R38). -/
theorem rxsLegal_acknowledgeReceive {s : State} (hp : s.params.enableBit ≠ s.params.readyBit)
    (h : rxsLegal s = true) : rxsLegal (acknowledgeReceive s) = true := by
  unfold acknowledgeReceive
  split
  next hready =>
    simp only [State.rxEnabled, State.rxReady, Bool.and_eq_true] at hready
    rw [rxsLegal_iff] at h ⊢
    rcases h with h | h | h
    · simp [h] at hready
    · rw [h, ready_rxPending hp] at hready
      cases hready.2
    · exact .inr (.inl (by rw [h]; exact clearReady_readyVal hp))
  next => exact h

/-- The invariant of `t` from that of `s`, by the parts that can change while the parameters and the control store do
not. -/
theorem wf_of_wf {s t : State} (hs : State.wf s = true) (hp : t.params = s.params) (hcs : t.cs = s.cs)
    (hr : ∀ c ∈ s.params.regIndex.constants, t.readReg c = s.readReg c) (hrxs : rxsLegal t = true)
    (htxs : txsLegal t = true) (hq : queuesBounded t = true) (hm : Memory.wf t.mem = true) : State.wf t = true := by
  obtain ⟨hparams, hconst, -, -, -, -, hstore⟩ := (wf_iff s).mp hs
  exact (wf_iff t).mpr
    ⟨hp ▸ hparams, (constantsHold_congr hp hr).trans hconst, hrxs, htxs, hq, hm, hcs ▸ hstore⟩

theorem wf_raise {s : State} (f : Fault) (hs : State.wf s = true) : State.wf (raise f s) = true := hs

theorem wf_afterDatapath (m : MicroInstr) {s : State} (hs : State.wf s = true) :
    State.wf (afterDatapath m s) = true := by
  obtain ⟨-, -, hrxs, htxs, hq, hm, -⟩ := (wf_iff s).mp hs
  exact wf_of_wf hs (by simp) (by simp) (fun _ hc => afterDatapath_readReg_constant m hc)
    (by simpa [rxsLegal] using hrxs) (by simpa [txsLegal] using htxs) (by simpa [queuesBounded] using hq)
    (by simpa using hm)

theorem wf_memReadEffect (a : Addr) {s : State} (hs : State.wf s = true) : State.wf (memReadEffect a s) = true := by
  obtain ⟨hparams, -, hrxs, htxs, hq, hm, -⟩ := (wf_iff s).mp hs
  obtain ⟨-, -, hbits, -⟩ := (params_wf_iff _).mp hparams
  unfold memReadEffect
  split
  · exact wf_of_wf hs (by simp) (by simp) (fun c _ => readReg_congr (by simp) c)
      (rxsLegal_acknowledgeReceive hbits hrxs) (by simpa [txsLegal] using htxs) (by simpa [queuesBounded] using hq)
      (by simpa using hm)
  · exact hs

theorem wf_readCycle {s : State} (hs : State.wf s = true) : State.wf (readCycle s) = true := by
  cases ha : s.stgA with
  | none => rw [readCycle_first ha]; exact hs
  | some a => rw [readCycle_second ha]; exact wf_memReadEffect a hs

/-- A store that is not held keeps the invariant: a status word takes a legal value, and TXQ had room. -/
theorem wf_memWriteState {a : Addr} (v : Word) {s : State} (hfree : s.transmitBlocked a = false)
    (hs : State.wf s = true) : State.wf (memWriteState a v s) = true := by
  obtain ⟨-, -, hrxs, htxs, hq, hm, -⟩ := (wf_iff s).mp hs
  obtain ⟨hrxq, htxq⟩ := (queuesBounded_iff s).mp hq
  refine wf_of_wf hs (by simp) (by simp) (fun c _ => readReg_congr (by simp) c) ?_ ?_ ?_ (wf_mem_memWriteState hm a v)
  · rw [rxsLegal_iff, memWriteState_rxs, memWriteState_params]
    split
    · exact .inr (.inl rfl)
    · exact (rxsLegal_iff s).mp hrxs
  · rw [txsLegal_iff, memWriteState_params]
    rcases memWriteState_txs a v s with h | h
    · exact h ▸ (txsLegal_iff s).mp htxs
    · exact .inr h
  · rw [queuesBounded_iff, memWriteState_rxq, memWriteState_params]
    exact ⟨hrxq, memWriteState_txq_bounded v hfree htxq⟩

theorem wf_afterRequest {m : MicroInstr} {s : State} (hfree : writeIsHeld m s = false) (hs : State.wf s = true) :
    State.wf (afterRequest m s) = true := by
  unfold afterRequest
  split
  next => exact wf_readCycle hs
  next hrd hwr =>
    split
    next a v ha hv =>
      have hroom : s.transmitBlocked a = false := by
        simpa [writeIsHeld, ha, hv, MicroInstr.writes, hrd, hwr] using hfree
      exact wf_memWriteState v hroom hs
    next => exact hs
  next => exact hs

theorem wf_endOfStep {s : State} (hs : State.wf s = true) : State.wf (endOfStep s) = true := by
  obtain ⟨-, -, hrxs, htxs, hq, hm, -⟩ := (wf_iff s).mp hs
  obtain ⟨hrxq, htxq⟩ := (queuesBounded_iff s).mp hq
  refine wf_of_wf hs (by simp) (by simp) (fun c _ => readReg_congr (by simp) c) ?_ (by simpa [txsLegal] using htxs) ?_
    (wf_mem_endOfStep hm)
  · rw [rxsLegal_iff, endOfStep_rxs, endOfStep_params]
    split
    · exact .inr (.inr rfl)
    · exact (rxsLegal_iff s).mp hrxs
  · rw [queuesBounded_iff, endOfStep_rxq, endOfStep_txq, endOfStep_params]
    refine ⟨?_, htxq⟩
    split
    · rw [List.length_tail]; omega
    · exact hrxq

theorem wf_rdWrHalt {start s : State} (hstart : State.wf start = true) (hs : State.wf s = true) :
    State.wf (rdWrHalt start s) = true := by
  cases h : s.params.rdwrHaltPoint with
  | afterSequencing => rw [rdWrHalt_afterSequencing h]; exact hs
  | discardAll => rw [rdWrHalt_discardAll h]; exact hstart
  | complete => rw [rdWrHalt_complete h]; exact wf_endOfStep (s := { s with desired := .halt }) hs

theorem writeIsHeld_afterDatapath (m : MicroInstr) (s : State) :
    writeIsHeld m (afterDatapath m s) = writeIsHeld m s := by
  simp only [writeIsHeld, afterDatapath_stgA, afterDatapath_stgB, transmitBlocked_afterDatapath]

theorem wf_afterCycle {m : MicroInstr} {s : State} (hc : cycleCompletes m s = true) (hs : State.wf s = true) :
    State.wf (afterCycle m s) = true := by
  have hfree : writeIsHeld m (afterDatapath m s) = false := by
    rw [writeIsHeld_afterDatapath]
    simp only [cycleCompletes, Bool.and_eq_true, Bool.not_eq_true'] at hc
    exact hc.2
  have hdatapath := wf_afterDatapath m hs
  unfold afterCycle
  split
  · exact wf_rdWrHalt hs hdatapath
  · exact wf_endOfStep (wf_afterRequest hfree hdatapath)

theorem wf_step {s t : State} (hs : State.wf s = true) (h : step s = .next t) : State.wf t = true := by
  rcases step_next_inv h with ⟨f, rfl⟩ | rfl | ⟨slot, -, hc, rfl⟩
  · exact wf_raise f hs
  · exact hs
  · exact wf_afterCycle hc hs

/-! ## Desired in a Step (R36, 43_memory_requests.md R211, 60_exceptions.md R261) -/

theorem rdWrHalt_desired (start s : State) : (rdWrHalt start s).desired = .halt := by
  cases h : s.params.rdwrHaltPoint with
  | afterSequencing => rw [rdWrHalt_afterSequencing h]
  | discardAll => rw [rdWrHalt_discardAll h]
  | complete => simp [rdWrHalt_complete h]

/-- Desired after a Step that runs to its end: as before, or HALT with one of its two causes. -/
theorem afterCycle_desired_cases (m : MicroInstr) (s : State) :
    (afterCycle m s).desired = s.desired ∨
    (afterCycle m s).desired = .halt ∧ (breakpointAt (afterCycle m s) = true ∨ m.rd = true ∧ m.wr = true) := by
  cases hh : MicroInstr.halts m with
  | true =>
    have hboth : m.rd = true ∧ m.wr = true := by simpa [MicroInstr.halts] using hh
    exact .inr ⟨by rw [afterCycle, if_pos hh, rdWrHalt_desired], .inr hboth⟩
  | false =>
    have hd := afterCycle_desired hh s
    cases hb : breakpointAt (afterCycle m s) with
    | true => exact .inr ⟨by simpa [hb] using hd, .inl rfl⟩
    | false => exact .inl (by simpa [hb] using hd)

/-! ## Properties that every transition of the engine keeps (R73) -/

/-- A Step keeps `P`, and so does a write of the two fields the run loop has for itself. -/
structure KeptBySteps (P : State → Prop) : Prop where
  step_next : ∀ s t : State, step s = .next t → P s → P t
  loop_fields : ∀ (s : State) (w : Bool) (r : RunState), P s → P { s with awaitingSpace := w, runState := r }

section
variable {P : State → Prop} {s : State}

theorem KeptBySteps.turn (hP : KeptBySteps P) (hs : P s) : P (runTurn s).state := by
  rcases runTurn_state s with ⟨w, r, he⟩ | ⟨t, r, hstep, he⟩
  · exact he ▸ hP.loop_fields s w r hs
  · have ht : P t := hP.step_next _ t hstep (hP.loop_fields s false s.runState hs)
    exact he ▸ hP.loop_fields t t.awaitingSpace r ht

theorem KeptBySteps.event (hP : KeptBySteps P) {e : Event} (hop : ∀ op, e = .host op → P (hostOp op s).1)
    (hs : P s) : P (afterEvent e s) := by
  cases e with
  | host op => exact hop op rfl
  | turn => exact hP.turn hs
  | step =>
    cases hstep : step s with
    | next t => simpa only [afterEvent, hstep] using hP.step_next s t hstep hs
    | fault f => simpa only [afterEvent, hstep] using hs
    | refused r => simpa only [afterEvent, hstep] using hs

theorem KeptBySteps.events (hP : KeptBySteps P) {es : List Event}
    (hop : ∀ op, .host op ∈ es → ∀ s, P s → P (hostOp op s).1) (hs : P s) : P (afterEvents es s) := by
  induction es generalizing s with
  | nil => exact hs
  | cons e es ih =>
    have he : P (afterEvent e s) :=
      hP.event (fun op h => hop op (h ▸ List.mem_cons_self) s hs) hs
    exact ih (fun op h => hop op (List.mem_cons_of_mem e h)) he

end

/-! ## What the host's operations leave unchanged -/

/-- The three operations that write the control store or its flags (R230, R233, R237). -/
def HostOp.writesControlStore : HostOp → Bool
  | .loadControlStore _ | .zeroControlStore | .toggleBreakpoint _ => true
  | _ => false

/-- No operation writes the parameters, Reset alone the register file, and three the control store. -/
theorem hostOp_frame (op : HostOp) (s : State) :
    (hostOp op s).1.params = s.params ∧ (op ≠ .reset → (hostOp op s).1.regs = s.regs) ∧
    (op.writesControlStore = false → (hostOp op s).1.cs = s.cs) := by
  cases op with
  | loadControlStore ws => simp only [hostOp, loadControlStore]; split <;> simp [HostOp.writesControlStore]
  | loadMemory ws => simp only [hostOp, loadMemory]; split <;> simp
  | enterRun => simp only [hostOp, enterRun]; split <;> simp
  | toggleBreakpoint m => simp only [hostOp, toggleBreakpoint]; split <;> simp [HostOp.writesControlStore]
  | rxPush b => simp only [hostOp, rxPush]; split <;> simp
  | txPop => simp only [hostOp, txPop]; split <;> simp
  | zeroControlStore => simp [hostOp, HostOp.writesControlStore]
  | zeroMemory | reset | setDesired => simp [hostOp]

theorem constantsHold_hostOp (op : HostOp) {s : State} (hp : s.params.wf = true) (hs : constantsHold s = true) :
    constantsHold (hostOp op s).1 = true := by
  by_cases hop : op = .reset
  · subst hop
    exact constantsHold_resetEngine hp
  · obtain ⟨hparams, hregs, -⟩ := hostOp_frame op s
    exact (constantsHold_congr hparams fun c _ => readReg_congr (hregs hop) c).trans hs

theorem constantsHold_keptBySteps : KeptBySteps (constantsHold · = true) where
  step_next _ _ h hs := (constantsHold_step h).trans hs
  loop_fields _ _ _ hs := hs

/-- `t` has the control store and the parameters of `s`. -/
def SameControlStore (s t : State) : Prop := t.cs = s.cs ∧ t.params = s.params

theorem sameControlStore_keptBySteps (s : State) : KeptBySteps (SameControlStore s) where
  step_next _ _ h hs := by
    obtain ⟨hparams, hcs, -⟩ := step_frame h
    exact ⟨hcs.trans hs.1, hparams.trans hs.2⟩
  loop_fields _ _ _ hs := hs

theorem sameControlStore_hostOp {op : HostOp} (h : op.writesControlStore = false) {s t : State}
    (ht : SameControlStore s t) : SameControlStore s (hostOp op t).1 := by
  obtain ⟨hparams, -, hcs⟩ := hostOp_frame op t
  exact ⟨(hcs h).trans ht.1, hparams.trans ht.2⟩

end Sys2Proof.Machine

namespace Sys2Proof.Proofs

open Sys2Proof.Machine

/-- Settles O58: each way a Step can end keeps each part of the invariant. -/
theorem stepKeepsTheInvariant : Obligations.StepKeepsTheInvariant :=
  fun _ _ => wf_step

/-- Settles O31: the datapath writes no constant register, and Reset gives each its value. -/
theorem constantRegistersAreNeverWritten : Obligations.ConstantRegistersAreNeverWritten := by
  refine ⟨fun i s t h c hc => ?_, fun s t h c hc => step_readReg_constant h hc, fun e s hp hs => ?_⟩
  · rw [exec_eq_runWord] at h
    exact runWord_readReg_constant h hc
  · exact constantsHold_keptBySteps.event (fun op _ => constantsHold_hostOp op hp hs) hs

/-- Settles O45: only a Step that runs to its end changes Desired, by its breakpoint check or its halt. -/
theorem desiredChangesOnlyByBreakpointOrHalt : Obligations.DesiredChangesOnlyByBreakpointOrHalt := by
  intro s t h
  refine ⟨(step_frame h).2.2, ?_⟩
  rcases step_next_inv h with ⟨f, rfl⟩ | rfl | ⟨slot, hslot, -, rfl⟩
  · exact .inl rfl
  · exact .inl rfl
  · rcases afterCycle_desired_cases slot.mi s with hd | ⟨hd, hb | ⟨hrd, hwr⟩⟩
    · exact .inl hd
    · exact .inr ⟨hd, .inl hb⟩
    · exact .inr ⟨hd, .inr ⟨slot, hslot, hrd, hwr⟩⟩

/-- Settles O46, by induction on the sequence: each transition but the three excluded ones keeps both. -/
theorem onlyTheHostChangesTheControlStore : Obligations.OnlyTheHostChangesTheControlStore := by
  intro es s hes
  refine (sameControlStore_keptBySteps s).events (fun op hop t ht => sameControlStore_hostOp ?_ ht) ⟨rfl, rfl⟩
  obtain ⟨hload, hzero, htoggle⟩ := hes _ hop
  cases op with
  | loadControlStore ws => exact absurd rfl (hload ws)
  | zeroControlStore => exact absurd rfl hzero
  | toggleBreakpoint m => exact absurd rfl (htoggle m)
  | _ => rfl

end Sys2Proof.Proofs

/-! PROOFS. The statements of 20_memory.md: every interleaving keeps the invariant (R73), device-aware reads and writes
at every address (R70, R71), the memory frame of a Step (R69) and the binary images (R66). -/

namespace Sys2Proof.Machine

/-! ## The host's operations keep the invariant (R73, R243) -/

theorem wf_loadControlStore (ws : List ControlWord) {s : State} (hs : State.wf s = true) :
    State.wf (loadControlStore ws s).1 = true := by
  unfold loadControlStore
  split
  · exact hs
  next hfit =>
    obtain ⟨hparams, hconst, hrxs, htxs, hq, hm, hcs⟩ := (wf_iff s).mp hs
    exact (wf_iff _).mpr ⟨hparams, hconst, hrxs, htxs, hq, hm, ControlStore.wf_installWords hcs (by omega)⟩

theorem wf_zeroControlStore {s : State} (hs : State.wf s = true) : State.wf (zeroControlStore s) = true := by
  obtain ⟨hparams, hconst, hrxs, htxs, hq, hm, -⟩ := (wf_iff s).mp hs
  exact (wf_iff _).mpr ⟨hparams, hconst, hrxs, htxs, hq, hm, ControlStore.wf_nil⟩

theorem wf_toggleBreakpoint (m : MicroAddr) {s : State} (hs : State.wf s = true) :
    State.wf (toggleBreakpoint m s) = true := by
  unfold toggleBreakpoint
  split
  · obtain ⟨hparams, hconst, hrxs, htxs, hq, hm, hcs⟩ := (wf_iff s).mp hs
    exact (wf_iff _).mpr ⟨hparams, hconst, hrxs, htxs, hq, hm, ControlStore.wf_define hcs _ _⟩
  · exact hs

/-- A write of the memory alone keeps the invariant if it leaves a canonical list. -/
theorem wf_withMem {s : State} {mem : Memory} (hmem : Memory.wf mem = true) (hs : State.wf s = true) :
    State.wf { s with mem := mem } = true := by
  obtain ⟨-, -, hrxs, htxs, hq, -, -⟩ := (wf_iff s).mp hs
  exact wf_of_wf hs rfl rfl (fun _ _ => rfl) hrxs htxs hq hmem

theorem wf_loadMemory (ws : List Word) {s : State} (hs : State.wf s = true) :
    State.wf (loadMemory ws s).1 = true := by
  unfold loadMemory
  split
  · exact hs
  next hfit =>
    obtain ⟨-, -, -, -, -, hm, -⟩ := (wf_iff s).mp hs
    exact wf_withMem (Memory.wf_installCells hm (by omega)) hs

theorem wf_rxPush (b : Byte) {s : State} (hs : State.wf s = true) : State.wf (rxPush b s).1 = true := by
  obtain ⟨-, -, hrxs, htxs, hq, hm, -⟩ := (wf_iff s).mp hs
  obtain ⟨-, htxq⟩ := (queuesBounded_iff s).mp hq
  unfold rxPush
  split
  next hroom =>
    refine wf_of_wf hs rfl rfl (fun _ _ => rfl) hrxs htxs ((queuesBounded_iff _).mpr ⟨?_, htxq⟩) hm
    simpa using hroom
  · exact hs

theorem wf_txPop {s : State} (hs : State.wf s = true) : State.wf (txPop s).1 = true := by
  obtain ⟨-, -, hrxs, htxs, hq, hm, -⟩ := (wf_iff s).mp hs
  obtain ⟨hrxq, htxq⟩ := (queuesBounded_iff s).mp hq
  unfold txPop
  split
  next b rest hcons =>
    have hrest : rest.length ≤ s.params.txqCap := by
      simp only [hcons, List.length_cons] at htxq
      omega
    exact wf_of_wf hs rfl rfl (fun _ _ => rfl) hrxs htxs ((queuesBounded_iff _).mpr ⟨hrxq, hrest⟩) hm
  · exact hs

theorem resetUnlistedValue_cases (p : Params) (old : Word) :
    resetUnlistedValue p old = old ∨ resetUnlistedValue p old = 0 := by
  unfold resetUnlistedValue
  split
  · exact .inl rfl
  · exact .inr rfl

/-- Reset gives the constant registers their values, and leaves each status word or makes it 0 (R292). -/
theorem wf_resetEngine {s : State} (hs : State.wf s = true) : State.wf (resetEngine s) = true := by
  obtain ⟨hparams, -, hrxs, htxs, hq, hm, hcs⟩ := (wf_iff s).mp hs
  refine (wf_iff _).mpr ⟨hparams, constantsHold_resetEngine hparams, (rxsLegal_iff _).mpr ?_, (txsLegal_iff _).mpr ?_,
    (queuesBounded_iff _).mpr ((queuesBounded_iff s).mp hq), hm, by rwa [resetEngine_cs]⟩
  · rw [resetEngine_rxs, resetEngine_params]
    rcases resetUnlistedValue_cases s.params s.rxs with h | h <;> rw [h]
    · exact (rxsLegal_iff s).mp hrxs
    · exact .inl rfl
  · rw [resetEngine_txs, resetEngine_params]
    rcases resetUnlistedValue_cases s.params s.txs with h | h <;> rw [h]
    · exact (txsLegal_iff s).mp htxs
    · exact .inl rfl

theorem wf_enterRun {s : State} (hs : State.wf s = true) : State.wf (enterRun s) = true := by
  unfold enterRun
  split <;> exact hs

theorem wf_hostOp (op : HostOp) {s : State} (hs : State.wf s = true) : State.wf (hostOp op s).1 = true := by
  cases op with
  | loadControlStore ws => exact wf_loadControlStore ws hs
  | loadMemory ws => exact wf_loadMemory ws hs
  | zeroMemory => exact wf_withMem Memory.wf_nil hs
  | zeroControlStore => exact wf_zeroControlStore hs
  | reset => exact wf_resetEngine hs
  | setDesired v => exact hs
  | enterRun => exact wf_enterRun hs
  | toggleBreakpoint m => exact wf_toggleBreakpoint m hs
  | rxPush b => exact wf_rxPush b hs
  | txPop => exact wf_txPop hs

theorem wf_keptBySteps : KeptBySteps (State.wf · = true) where
  step_next _ _ h hs := wf_step hs h
  loop_fields _ _ _ hs := hs

/-! ## The cells a Step leaves alone (R69, 43_memory_requests.md R210) -/

/-- The poll that leaves the queue as it was took no byte. -/
theorem pollTakes_eq_false_of_rxq {s : State} (h : (endOfStep s).rxq = s.rxq) : pollTakes s = false := by
  cases hp : pollTakes s with
  | false => rfl
  | true =>
    rw [endOfStep_rxq, hp, if_pos rfl] at h
    have hnil : s.rxq = [] := by
      have := congrArg List.length h
      rw [List.length_tail] at this
      exact List.eq_nil_of_length_eq_zero (by omega)
    simp [pollTakes, hnil] at hp

/-- The end of a Step changes no cell but the receiver data cell, and that one only with the queue. -/
theorem cell_endOfStep_of_rxq {s : State} {b : Addr} (h : b ≠ s.params.rxDataAddr ∨ (endOfStep s).rxq = s.rxq) :
    (endOfStep s).cell b = s.cell b :=
  cell_endOfStep (h.imp_right pollTakes_eq_false_of_rxq)

theorem cell_afterDatapath (m : MicroInstr) (s : State) (b : Addr) : (afterDatapath m s).cell b = s.cell b :=
  cell_congr (by simp) b

/-- A request changes no cell but the one a write cycle 2 goes to. -/
theorem cell_afterRequest {m : MicroInstr} {s : State} {b : Addr}
    (h : MicroInstr.writes m = true → s.stgA ≠ some b) : (afterRequest m s).cell b = s.cell b := by
  unfold afterRequest
  split
  next => exact cell_congr (by simp) b
  next hrd hwr =>
    split
    next a v ha _ =>
      have hb : b ≠ a := fun hba => h (by simp [MicroInstr.writes, hrd, hwr]) (hba ▸ ha)
      exact cell_memWriteState_other hb v s
    next => rfl
  next => rfl

/-- A halt stores nothing itself: under `complete` its poll may. -/
theorem cell_rdWrHalt {start s : State} {b : Addr} (hm : s.mem = start.mem) (hq : s.rxq = start.rxq)
    (h : b ≠ s.params.rxDataAddr ∨ (rdWrHalt start s).rxq = start.rxq) :
    (rdWrHalt start s).cell b = start.cell b := by
  cases hp : s.params.rdwrHaltPoint with
  | afterSequencing => rw [rdWrHalt_afterSequencing hp]; exact cell_congr hm b
  | discardAll => rw [rdWrHalt_discardAll hp]; rfl
  | complete =>
    rw [rdWrHalt_complete hp] at h ⊢
    exact (cell_endOfStep_of_rxq (s := { s with desired := .halt }) (h.imp_right (·.trans hq.symm))).trans
      (cell_congr hm b)

theorem cell_afterCycle {m : MicroInstr} {s : State} {b : Addr}
    (hw : MicroInstr.writes m = true → s.stgA ≠ some b)
    (hp : b ≠ s.params.rxDataAddr ∨ (afterCycle m s).rxq = s.rxq) : (afterCycle m s).cell b = s.cell b := by
  cases hh : MicroInstr.halts m with
  | true =>
    simp only [afterCycle, hh, if_true] at hp ⊢
    exact cell_rdWrHalt (by simp) (by simp) (by simpa using hp)
  | false =>
    rw [afterCycle_eq hh] at hp ⊢
    calc (endOfStep (afterRequest m (afterDatapath m s))).cell b
        = (afterRequest m (afterDatapath m s)).cell b := cell_endOfStep_of_rxq (by simpa using hp)
      _ = (afterDatapath m s).cell b := cell_afterRequest (by simpa using hw)
      _ = s.cell b := cell_afterDatapath m s b

/-! ## Device addresses and the poll -/

/-- No two device addresses are the same (R62). -/
theorem deviceAddrs_distinct {p : Params} (h : p.wf = true) :
    p.rxDataAddr ≠ p.rxStatusAddr ∧ p.rxDataAddr ≠ p.txDataAddr ∧ p.rxDataAddr ≠ p.txStatusAddr ∧
    p.rxStatusAddr ≠ p.txDataAddr ∧ p.rxStatusAddr ≠ p.txStatusAddr ∧ p.txDataAddr ≠ p.txStatusAddr := by
  obtain ⟨-, haddrs, -⟩ := (params_wf_iff p).mp h
  simpa [Params.deviceAddrs, and_assoc] using haddrs

theorem not_mem_deviceAddrs_iff (p : Params) (a : Addr) :
    a ∉ p.deviceAddrs ↔ a ≠ p.rxDataAddr ∧ a ≠ p.rxStatusAddr ∧ a ≠ p.txDataAddr ∧ a ≠ p.txStatusAddr := by
  simp [Params.deviceAddrs]

/-- An enabled receiver without a byte takes the next one there is. -/
theorem pollTakes_of_waiting {s : State} (he : s.rxEnabled = true) (hr : s.rxReady = false) :
    pollTakes s = !s.rxq.isEmpty := by
  simp [pollTakes, he, hr]

@[simp] theorem rxEnabled_afterDatapath (m : MicroInstr) (s : State) :
    (afterDatapath m s).rxEnabled = s.rxEnabled := by simp [State.rxEnabled]

@[simp] theorem rxReady_afterDatapath (m : MicroInstr) (s : State) :
    (afterDatapath m s).rxReady = s.rxReady := by simp [State.rxReady]

@[simp] theorem txEnabled_afterDatapath (m : MicroInstr) (s : State) :
    (afterDatapath m s).txEnabled = s.txEnabled := by simp [State.txEnabled]

/-! ## The word a read returns (R70) -/

theorem memReadValue_rxStatus {s : State} (hp : s.params.wf = true) :
    memReadValue s.params.rxStatusAddr s = s.rxs := by
  obtain ⟨hrx, -⟩ := deviceAddrs_distinct hp
  simp [memReadValue, hrx.symm]

theorem memReadValue_txStatus_live {s : State} (hp : s.params.wf = true) (h : s.params.txStatusRead = .live) :
    memReadValue s.params.txStatusAddr s = s.txs := by
  obtain ⟨-, -, hrx, -, hst, -⟩ := deviceAddrs_distinct hp
  simp [memReadValue, hrx.symm, hst.symm, h]

theorem memReadValue_txStatus_backing {s : State} (hp : s.params.wf = true) (h : s.params.txStatusRead = .backing) :
    memReadValue s.params.txStatusAddr s = s.cell s.params.txStatusAddr := by
  obtain ⟨-, -, hrx, -, hst, -⟩ := deviceAddrs_distinct hp
  simp [memReadValue, hrx.symm, hst.symm, h]

/-- Away from the status addresses a read returns the cell. -/
theorem memReadValue_cell {s : State} {a : Addr} (hrx : a ≠ s.params.rxStatusAddr) (htx : a ≠ s.params.txStatusAddr) :
    memReadValue a s = s.cell a := by
  simp [memReadValue, hrx, htx]

/-! ## The side effect of a read (R70) -/

/-- Reading receiver data while it is ready clears READY. -/
theorem memReadEffect_ready {s : State} (he : s.rxEnabled = true) (hr : s.rxReady = true) :
    memReadEffect s.params.rxDataAddr s = { s with rxs := s.rxs &&& ~~~(1#16 <<< s.params.readyBit.val) } := by
  simp [memReadEffect, acknowledgeReceive, he, hr]

theorem memReadEffect_idle {s : State} {a : Addr}
    (h : a ≠ s.params.rxDataAddr ∨ s.rxEnabled = false ∨ s.rxReady = false) : memReadEffect a s = s := by
  unfold memReadEffect acknowledgeReceive
  rcases h with h | h | h <;> simp [h]

/-- Clearing one bit of a word leaves the others. -/
theorem getLsbD_clearBit (w : Word) (n i : Fin 16) :
    (w &&& ~~~(1#16 <<< n.val)).getLsbD i.val = (w.getLsbD i.val && decide (i ≠ n)) := by
  simp only [BitVec.getLsbD_and, BitVec.getLsbD_not, getLsbD_oneBit, i.isLt, decide_true, Bool.true_and, decide_not]

/-- After the acknowledgement the receiver waits for the next byte. -/
theorem pollTakes_memReadEffect_ready {s : State} (hp : s.params.wf = true) (he : s.rxEnabled = true)
    (hr : s.rxReady = true) : pollTakes (memReadEffect s.params.rxDataAddr s) = !s.rxq.isEmpty := by
  obtain ⟨-, -, hbits, -⟩ := (params_wf_iff _).mp hp
  rw [memReadEffect_ready he hr, pollTakes_of_waiting]
  · simp only [State.rxEnabled] at he ⊢
    rw [getLsbD_clearBit, he, decide_eq_true hbits, Bool.and_self]
  · simp only [State.rxReady, getLsbD_clearBit, ne_eq, not_true_eq_false, decide_false, Bool.and_false]

/-! ## The Step of a read cycle 2 -/

/-- The state before the end of the Step of a read cycle 2 at `a`. -/
theorem afterCycle_readSecond {m : MicroInstr} {s : State} {a : Addr} (hm : MicroInstr.reads m = true)
    (ha : s.stgA = some a) :
    afterCycle m s = endOfStep { memReadEffect a (afterDatapath m s) with mbr := memReadValue a s, stgA := none } := by
  obtain ⟨hrd, hwr⟩ : m.rd = true ∧ m.wr = false := by simpa [MicroInstr.reads] using hm
  rw [afterCycle_eq (by simp [MicroInstr.halts, hwr]), afterRequest_read hrd,
    readCycle_second (a := a) (by simpa using ha), memReadValue_congr (s := s) (by simp) (by simp) (by simp) (by simp)]

section
variable {m : MicroInstr} {s : State} {a : Addr}

theorem readSecond_frame (hm : MicroInstr.reads m = true) (ha : s.stgA = some a) :
    (afterCycle m s).mbr = memReadValue a s ∧ (afterCycle m s).txs = s.txs ∧ (afterCycle m s).txq = s.txq := by
  simp [afterCycle_readSecond hm ha]

/-- A read without a side effect leaves RXS to the poll. -/
theorem readSecond_rxs_idle (hm : MicroInstr.reads m = true) (ha : s.stgA = some a)
    (h : a ≠ s.params.rxDataAddr ∨ s.rxEnabled = false ∨ s.rxReady = false) :
    (afterCycle m s).rxs = if pollTakes s then readyVal s.params else s.rxs := by
  have hpoll : pollTakes { afterDatapath m s with mbr := memReadValue a s, stgA := none } = pollTakes s :=
    pollTakes_afterDatapath m s
  rw [afterCycle_readSecond hm ha, memReadEffect_idle (by simpa using h), endOfStep_rxs, hpoll]
  simp

variable (hp : s.params.wf = true) (hm : MicroInstr.reads m = true) (ha : s.stgA = some s.params.rxDataAddr)
  (he : s.rxEnabled = true) (hr : s.rxReady = true)
include hp hm ha he hr

/-- The Step that acknowledges a byte: its poll takes the next one exactly if there is one. -/
theorem readSecond_ready :
    ∃ u : State, afterCycle m s = endOfStep u ∧ pollTakes u = !s.rxq.isEmpty ∧ u.params = s.params ∧
      u.rxs = s.rxs &&& ~~~(1#16 <<< s.params.readyBit.val) ∧ u.rxq = s.rxq ∧ u.mem = s.mem := by
  have hd := afterDatapath_params m s
  have hwait := pollTakes_memReadEffect_ready (s := afterDatapath m s) (by rwa [hd]) (by simpa using he)
    (by simpa using hr)
  have heff := memReadEffect_ready (s := afterDatapath m s) (by simpa using he) (by simpa using hr)
  rw [hd] at hwait heff
  refine ⟨_, afterCycle_readSecond hm ha, ?_, ?_, ?_, ?_, ?_⟩
  · exact hwait.trans (by simp)
  · simp
  · simp [heff]
  · simp
  · simp

/-- With nothing waiting, the acknowledgement clears READY and no cell changes. -/
theorem readSecond_ready_empty (hq : s.rxq = []) :
    (afterCycle m s).rxs = s.rxs &&& ~~~(1#16 <<< s.params.readyBit.val) ∧
    ∀ b, (afterCycle m s).cell b = s.cell b := by
  obtain ⟨u, heq, hpoll, -, hrxs, -, hmem⟩ := readSecond_ready hp hm ha he hr
  have hidle : pollTakes u = false := by simp [hpoll, hq]
  rw [heq]
  exact ⟨by rw [endOfStep_rxs, hidle, ← hrxs]; rfl,
    fun b => (cell_endOfStep (.inr hidle)).trans (cell_congr hmem b)⟩

/-- With a byte waiting, the poll of the same Step loads it. -/
theorem readSecond_ready_waiting {byte : Byte} {rest : List Byte} (hq : s.rxq = byte :: rest) :
    (afterCycle m s).rxs = readyVal s.params ∧ (afterCycle m s).rxq = rest ∧
    (Memory.wf s.mem = true → (afterCycle m s).cell s.params.rxDataAddr = byte.setWidth 16) := by
  obtain ⟨u, heq, hpoll, hparams, -, hrxq, hmem⟩ := readSecond_ready hp hm ha he hr
  have htakes : pollTakes u = true := by simp [hpoll, hq]
  rw [heq]
  refine ⟨by rw [endOfStep_rxs, htakes, hparams]; rfl, by simp [endOfStep_rxq, htakes, hrxq, hq], fun hwf => ?_⟩
  rw [← hparams]
  exact cell_endOfStep_taken htakes (hrxq.trans hq) (hmem ▸ hwf)

end

/-! ## What a store leaves, address by address (R71) -/

/-- A store to a plain address or to receiver data replaces the cell. -/
theorem memWriteState_store {s : State} {a : Addr} (hrs : a ≠ s.params.rxStatusAddr) (hts : a ≠ s.params.txStatusAddr)
    (htd : a ≠ s.params.txDataAddr) (v : Word) : memWriteState a v s = s.storeCell a v := by
  simp [memWriteState, hrs, hts, htd]

/-- A store to the receiver status address reaches neither memory nor the transmitter. -/
theorem memWriteState_rxStatus_frame (v : Word) (s : State) :
    (memWriteState s.params.rxStatusAddr v s).mem = s.mem ∧ (memWriteState s.params.rxStatusAddr v s).txs = s.txs ∧
    (memWriteState s.params.rxStatusAddr v s).txq = s.txq := by
  simp only [memWriteState, if_true]
  split <;> simp

/-- The transmitter status after a store of `v` to its address: the enable code makes it ready. -/
def writeTxStatus (v : Word) (s : State) : State :=
  if v = s.params.enableCode then { s with txs := readyVal s.params } else s

@[simp] theorem writeTxStatus_mem (v : Word) (s : State) : (writeTxStatus v s).mem = s.mem := by
  unfold writeTxStatus; split <;> rfl
@[simp] theorem writeTxStatus_txq (v : Word) (s : State) : (writeTxStatus v s).txq = s.txq := by
  unfold writeTxStatus; split <;> rfl
@[simp] theorem writeTxStatus_txs (v : Word) (s : State) :
    (writeTxStatus v s).txs = if v = s.params.enableCode then readyVal s.params else s.txs := by
  unfold writeTxStatus; split <;> rfl

theorem memWriteState_txStatus_live {s : State} (hp : s.params.wf = true) (h : s.params.txStatusRead = .live)
    (v : Word) : memWriteState s.params.txStatusAddr v s = writeTxStatus v s := by
  obtain ⟨-, -, -, -, hst, -⟩ := deviceAddrs_distinct hp
  simp [memWriteState, writeTxStatus, hst.symm, h]

theorem memWriteState_txStatus_backing {s : State} (hp : s.params.wf = true) (h : s.params.txStatusRead = .backing)
    (v : Word) :
    memWriteState s.params.txStatusAddr v s = (writeTxStatus v s).storeCell s.params.txStatusAddr v := by
  obtain ⟨-, -, -, -, hst, -⟩ := deviceAddrs_distinct hp
  simp [memWriteState, writeTxStatus, hst.symm, h]

/-- What a store to the transmitter status address does to the transmitter. -/
theorem memWriteState_txStatus_transmitter {s : State} (hp : s.params.wf = true) (v : Word) :
    (memWriteState s.params.txStatusAddr v s).txs = (if v = s.params.enableCode then readyVal s.params else s.txs) ∧
    (memWriteState s.params.txStatusAddr v s).txq = s.txq := by
  cases h : s.params.txStatusRead with
  | live => simp [memWriteState_txStatus_live hp h]
  | backing => simp [memWriteState_txStatus_backing hp h]

theorem memWriteState_txData {s : State} (hp : s.params.wf = true) (v : Word) :
    memWriteState s.params.txDataAddr v s = transmit s.params.txDataAddr v s := by
  obtain ⟨-, -, -, hsd, -, hds⟩ := deviceAddrs_distinct hp
  simp [memWriteState, hsd.symm, hds]

theorem cell_transmit {s : State} (hm : Memory.wf s.mem = true) (a : Addr) (v : Word) :
    (transmit a v s).cell a = (v.extractLsb' 0 8).setWidth 16 :=
  (cell_congr (t := transmit a v s) (s := s.storeCell a _) (by simp) a).trans (cell_storeCell_same hm a _)

@[simp] theorem storeCell_txEnabled (s : State) (a : Addr) (v : Word) :
    (s.storeCell a v).txEnabled = s.txEnabled := rfl

/-- An enabled transmitter sends the low byte. -/
@[simp] theorem transmit_txq (a : Addr) (v : Word) (s : State) :
    (transmit a v s).txq = if s.txEnabled then s.txq ++ [v.extractLsb' 0 8] else s.txq := by
  cases h : s.txEnabled <;> simp [transmit, h]

/-- An enabled transmitter is ready for the next byte. -/
@[simp] theorem transmit_txs (a : Addr) (v : Word) (s : State) :
    (transmit a v s).txs = if s.txEnabled then readyVal s.params else s.txs := by
  cases h : s.txEnabled <;> simp [transmit, h]

/-- The poll after a store that does not enable the receiver is the poll without it. -/
theorem pollTakes_memWriteState_other {s : State} {a : Addr} {v : Word}
    (h : ¬ (a = s.params.rxStatusAddr ∧ v = s.params.enableCode)) : pollTakes (memWriteState a v s) = pollTakes s :=
  pollTakes_congr (by rw [memWriteState_rxs, if_neg h]) (by simp) (by simp)

/-- A receiver that the store enables waits for a byte. -/
theorem pollTakes_memWriteState_enable {s : State} (hp : s.params.wf = true) :
    pollTakes (memWriteState s.params.rxStatusAddr s.params.enableCode s) = !s.rxq.isEmpty := by
  obtain ⟨-, -, hbits, -⟩ := (params_wf_iff _).mp hp
  have hrxs : (memWriteState s.params.rxStatusAddr s.params.enableCode s).rxs = rxPending s.params := by
    rw [memWriteState_rxs, if_pos ⟨rfl, rfl⟩]
  rw [pollTakes_of_waiting, memWriteState_rxq]
  · rw [State.rxEnabled, hrxs, memWriteState_params, enable_rxPending]
  · rw [State.rxReady, hrxs, memWriteState_params, ready_rxPending hbits]

/-! ## The Step of a write cycle 2 -/

/-- A store reads and writes nothing of the datapath. -/
theorem memWriteState_afterDatapath (a : Addr) (v : Word) (m : MicroInstr) (s : State) :
    (memWriteState a v (afterDatapath m s)).mem = (memWriteState a v s).mem ∧
    (memWriteState a v (afterDatapath m s)).rxs = (memWriteState a v s).rxs ∧
    (memWriteState a v (afterDatapath m s)).txs = (memWriteState a v s).txs ∧
    (memWriteState a v (afterDatapath m s)).txq = (memWriteState a v s).txq := by
  refine ⟨?_, by simp [memWriteState_rxs], ?_, ?_⟩ <;>
  · simp only [memWriteState, afterDatapath_params]
    repeat' split
    all_goals simp

section
variable {m : MicroInstr} {s : State} {a : Addr} {v : Word}
variable (hm : MicroInstr.writes m = true) (ha : s.stgA = some a) (hb : s.stgB = some v)
include hm ha hb

theorem afterCycle_writeSecond :
    afterCycle m s = endOfStep { memWriteState a v (afterDatapath m s) with stgA := none } := by
  obtain ⟨hrd, hwr⟩ : m.rd = false ∧ m.wr = true := by simpa [MicroInstr.writes] using hm
  rw [afterCycle_eq (by simp [MicroInstr.halts, hrd]),
    afterRequest_writeSecond hrd hwr (a := a) (v := v) (by simpa using ha) (by simpa using hb)]

/-- The Step of a write cycle 2 leaves what the store leaves, and then polls. -/
theorem writeSecond_spec :
    (afterCycle m s).txs = (memWriteState a v s).txs ∧ (afterCycle m s).txq = (memWriteState a v s).txq ∧
    (afterCycle m s).rxs = (if pollTakes (memWriteState a v s) then readyVal s.params else (memWriteState a v s).rxs) ∧
    (afterCycle m s).rxq = (if pollTakes (memWriteState a v s) then s.rxq.tail else s.rxq) ∧
    ∀ b, b ≠ s.params.rxDataAddr ∨ pollTakes (memWriteState a v s) = false →
      (afterCycle m s).cell b = (memWriteState a v s).cell b := by
  obtain ⟨hmem, hrxs, htxs, htxq⟩ := memWriteState_afterDatapath a v m s
  have hpoll : pollTakes { memWriteState a v (afterDatapath m s) with stgA := none } =
      pollTakes (memWriteState a v s) := pollTakes_congr hrxs (by simp) (by simp)
  rw [afterCycle_writeSecond hm ha hb, endOfStep_rxs, endOfStep_rxq, endOfStep_txs, endOfStep_txq, hpoll]
  refine ⟨htxs, htxq, by simp [hrxs], by simp, fun b hcell => ?_⟩
  exact (cell_endOfStep (by rw [hpoll]; simpa using hcell)).trans (cell_congr hmem b)

theorem writeSecond_rxs_idle (h : ¬ (a = s.params.rxStatusAddr ∧ v = s.params.enableCode)) :
    (afterCycle m s).rxs = if pollTakes s then readyVal s.params else s.rxs := by
  obtain ⟨-, -, hrxs, -, -⟩ := writeSecond_spec hm ha hb
  rw [hrxs, pollTakes_memWriteState_other h, memWriteState_rxs, if_neg h]

/-- A store changes no other cell but the receiver data cell that the poll fills. -/
theorem writeSecond_cell_other {b : Addr} (hba : b ≠ a)
    (h : b ≠ s.params.rxDataAddr ∨ (pollTakes s = false ∧ a ≠ s.params.rxStatusAddr)) :
    (afterCycle m s).cell b = s.cell b := by
  obtain ⟨-, -, -, -, hcell⟩ := writeSecond_spec hm ha hb
  have hpoll : b ≠ s.params.rxDataAddr ∨ pollTakes (memWriteState a v s) = false :=
    h.imp_right fun ⟨hidle, hrs⟩ => (pollTakes_memWriteState_other fun hen => hrs hen.1).trans hidle
  exact (hcell b hpoll).trans (cell_memWriteState_other hba v s)

/-- A store to a plain address or to receiver data. -/
theorem writeSecond_store (hwf : Memory.wf s.mem = true) (hrs : a ≠ s.params.rxStatusAddr)
    (hts : a ≠ s.params.txStatusAddr) (htd : a ≠ s.params.txDataAddr) :
    (a ≠ s.params.rxDataAddr ∨ pollTakes s = false → (afterCycle m s).cell a = v) ∧
    (afterCycle m s).txs = s.txs ∧ (afterCycle m s).txq = s.txq := by
  obtain ⟨htxs, htxq, -, -, hcell⟩ := writeSecond_spec hm ha hb
  rw [← pollTakes_memWriteState_other (v := v) fun hen => hrs hen.1]
  rw [memWriteState_store hrs hts htd] at htxs htxq hcell ⊢
  exact ⟨fun h => (hcell a h).trans (cell_storeCell_same hwf a v), htxs, htxq⟩

end

section
variable {m : MicroInstr} {s : State} {v : Word} (hm : MicroInstr.writes m = true) (hp : s.params.wf = true)
include hm hp

/-- Enabling the receiver leaves it pending, or ready with the byte its first poll takes. -/
theorem writeSecond_enable (ha : s.stgA = some s.params.rxStatusAddr) (hb : s.stgB = some s.params.enableCode) :
    (s.rxq = [] → (afterCycle m s).rxs = rxPending s.params) ∧
    (s.rxq ≠ [] → (afterCycle m s).rxs = readyVal s.params ∧ (afterCycle m s).rxq = s.rxq.tail) := by
  obtain ⟨-, -, hrxs, hrxq, -⟩ := writeSecond_spec hm ha hb
  rw [hrxs, hrxq, pollTakes_memWriteState_enable hp, memWriteState_rxs]
  constructor <;> intro hq <;> simp [hq]

theorem writeSecond_rxStatus (ha : s.stgA = some s.params.rxStatusAddr) (hb : s.stgB = some v) :
    (afterCycle m s).cell s.params.rxStatusAddr = s.cell s.params.rxStatusAddr ∧
    (afterCycle m s).txs = s.txs ∧ (afterCycle m s).txq = s.txq := by
  obtain ⟨htxs, htxq, -, -, hcell⟩ := writeSecond_spec hm ha hb
  obtain ⟨hmem, htxs', htxq'⟩ := memWriteState_rxStatus_frame v s
  obtain ⟨hrx, -⟩ := deviceAddrs_distinct hp
  exact ⟨(hcell _ (.inl hrx.symm)).trans (cell_congr hmem _), htxs.trans htxs', htxq.trans htxq'⟩

/-- A store to the transmitter status address: the cell takes the value exactly where it is backing storage (D16). -/
theorem writeSecond_txStatus (hwf : Memory.wf s.mem = true) (ha : s.stgA = some s.params.txStatusAddr)
    (hb : s.stgB = some v) :
    (afterCycle m s).txs = (if v = s.params.enableCode then readyVal s.params else s.txs) ∧
    (afterCycle m s).txq = s.txq ∧
    (s.params.txStatusRead = .live →
      (afterCycle m s).cell s.params.txStatusAddr = s.cell s.params.txStatusAddr) ∧
    (s.params.txStatusRead = .backing → (afterCycle m s).cell s.params.txStatusAddr = v) := by
  obtain ⟨htxs, htxq, -, -, hcell⟩ := writeSecond_spec hm ha hb
  obtain ⟨htxs', htxq'⟩ := memWriteState_txStatus_transmitter hp v
  obtain ⟨-, -, hrx, -⟩ := deviceAddrs_distinct hp
  rw [hcell _ (.inl hrx.symm)]
  refine ⟨htxs.trans htxs', htxq.trans htxq', fun h => ?_, fun h => ?_⟩
  · rw [memWriteState_txStatus_live hp h]
    exact cell_congr (writeTxStatus_mem v s) _
  · rw [memWriteState_txStatus_backing hp h]
    exact cell_storeCell_same (by simpa using hwf) _ v

theorem writeSecond_txData (hwf : Memory.wf s.mem = true) (ha : s.stgA = some s.params.txDataAddr)
    (hb : s.stgB = some v) :
    (afterCycle m s).cell s.params.txDataAddr = (v.extractLsb' 0 8).setWidth 16 ∧
    (afterCycle m s).txq = (if s.txEnabled then s.txq ++ [v.extractLsb' 0 8] else s.txq) ∧
    (afterCycle m s).txs = (if s.txEnabled then readyVal s.params else s.txs) := by
  obtain ⟨htxs, htxq, -, -, hcell⟩ := writeSecond_spec hm ha hb
  obtain ⟨-, hrx, -⟩ := deviceAddrs_distinct hp
  rw [hcell _ (.inl hrx.symm), htxs, htxq, memWriteState_txData hp]
  exact ⟨cell_transmit hwf _ v, transmit_txq _ v s, transmit_txs _ v s⟩

end

/-! ## The held Step (R71, D21) -/

theorem runWord_held {m : MicroInstr} {s : State} (hs : shiftFaults m s = false)
    (hc : constantWriteFaults m s = false) (hh : writeIsHeld m s = true) : runWord m s = .next s := by
  rw [runWord, microCycle_held hs hc hh]
  rfl

/-- An enabled transmitter with a full queue blocks a store to its data address. -/
theorem transmitBlocked_full {s : State} (hp : s.params.wf = true) (he : s.txEnabled = true)
    (hfull : s.txq.length = s.params.txqCap) : s.transmitBlocked s.params.txDataAddr = true := by
  obtain ⟨-, -, -, hrs, -, hts⟩ := deviceAddrs_distinct hp
  simp [State.transmitBlocked, hrs.symm, hts, he, hfull]

/-! ## Binary images (R66) -/

theorem controlWord_bytes (w : ControlWord) :
    w.extractLsb' 24 8 ++ w.extractLsb' 16 8 ++ w.extractLsb' 8 8 ++ w.extractLsb' 0 8 = w := by
  simp only [BitVec.extractLsb'_append_extractLsb'_eq_extractLsb', BitVec.extractLsb'_eq_self]

theorem word_bytes (w : Word) : w.extractLsb' 8 8 ++ w.extractLsb' 0 8 = w :=
  BitVec.extractLsb'_append_extractLsb'

theorem controlStoreImage_bytes (ws : List ControlWord) :
    controlStoreImage
        (ws.flatMap fun w => [w.extractLsb' 24 8, w.extractLsb' 16 8, w.extractLsb' 8 8, w.extractLsb' 0 8]) =
      .ok ws := by
  induction ws with
  | nil => rfl
  | cons w ws ih =>
    simp only [List.flatMap_cons, List.cons_append, List.nil_append, controlStoreImage, ih]
    rw [controlWord_bytes]

theorem memoryImage_bytes (ws : List Word) :
    memoryImage (ws.flatMap fun w => [w.extractLsb' 8 8, w.extractLsb' 0 8]) = .ok ws := by
  induction ws with
  | nil => rfl
  | cons w ws ih =>
    simp only [List.flatMap_cons, List.cons_append, List.nil_append, memoryImage, ih]
    rw [word_bytes]

theorem decodeBytes_bytes (w : ControlWord) (rest : List Byte) :
    decodeBytes (w.extractLsb' 24 8 :: w.extractLsb' 16 8 :: w.extractLsb' 8 8 :: w.extractLsb' 0 8 :: rest) =
      .ok (decode w, rest) := by
  simp only [decodeBytes, takeControlWord]
  rw [controlWord_bytes]

end Sys2Proof.Machine

namespace Sys2Proof.Proofs

open Sys2Proof.Machine

/-- Settles O60, by induction on the sequence: every Step, turn and host operation keeps the invariant. -/
theorem everyInterleavingKeepsTheInvariant : Obligations.EveryInterleavingKeepsTheInvariant :=
  fun _ _ => wf_keptBySteps.events fun op _ _ => wf_hostOp op

/-- Settles O34, address by address: the word read, the side effect of the read, and the poll after it. -/
theorem readCycleTwoOfEveryAddress : Obligations.ReadCycleTwoOfEveryAddress := by
  intro m s a hp ha hc
  have hm : MicroInstr.reads { m with rd := true, wr := false } = true := rfl
  obtain ⟨hmbr, htxs, htxq⟩ := readSecond_frame hm ha
  obtain ⟨hrdRs, -, hrdTs, hrsTd, -, htdTs⟩ := deviceAddrs_distinct hp
  refine ⟨_, exec_completes (i := .memRead m) hc, ?_, ?_, ?_, ?_, ?_, ?_, readSecond_rxs_idle hm ha, ?_, htxs, htxq⟩
  · rintro rfl
    exact hmbr.trans (memReadValue_cell hrdRs hrdTs)
  · rintro rfl
    exact hmbr.trans (memReadValue_rxStatus hp)
  · rintro rfl
    refine hmbr.trans ?_
    split
    next h => exact memReadValue_txStatus_live hp h
    next h => exact memReadValue_txStatus_backing hp h
  · rintro (rfl | hplain)
    · exact hmbr.trans (memReadValue_cell hrsTd.symm htdTs)
    · obtain ⟨-, hrs, -, hts⟩ := (not_mem_deviceAddrs_iff _ _).mp hplain
      exact hmbr.trans (memReadValue_cell hrs hts)
  · rintro rfl he hr hq
    exact readSecond_ready_empty hp hm ha he hr hq
  · rintro byte rest rfl he hr hq
    exact readSecond_ready_waiting hp hm ha he hr hq
  · intro b hb
    exact cell_afterCycle (fun h => by cases h) (.inl hb)

/-- Settles O36, address by address: what the store does to its cell and to the device, and the poll after it. -/
theorem writeCycleTwoOfEveryAddress : Obligations.WriteCycleTwoOfEveryAddress := by
  refine ⟨fun m s a v hp hwf ha hb hc => ?_, fun m s hp hs hcw ha hb he hfull => ?_⟩
  · have hm : MicroInstr.writes { m with rd := false, wr := true } = true := rfl
    obtain ⟨hdRs, hdTd, hdTs, -⟩ := deviceAddrs_distinct hp
    refine ⟨_, exec_completes (i := .memWrite m) hc, ?_, ?_, ?_, ?_, ?_, ?_, ?_, ?_, ?_,
      fun b hba h => writeSecond_cell_other hm ha hb hba h⟩
    · intro hplain
      obtain ⟨hrd, hrs, htd, hts⟩ := (not_mem_deviceAddrs_iff _ _).mp hplain
      obtain ⟨hcell, hrest⟩ := writeSecond_store hm ha hb hwf hrs hts htd
      exact ⟨hcell (.inl hrd), hrest⟩
    · rintro rfl hidle
      obtain ⟨hcell, hrest⟩ := writeSecond_store hm ha hb hwf hdRs hdTs hdTd
      have hrxs := writeSecond_rxs_idle hm ha hb fun hen => hdRs hen.1
      exact ⟨hcell (.inr hidle), hrxs.trans (by simp [hidle]), hrest⟩
    · rintro rfl rfl
      exact (writeSecond_enable hm hp ha hb).1
    · rintro rfl rfl
      exact (writeSecond_enable hm hp ha hb).2
    · rintro rfl hv hidle
      have hrxs := writeSecond_rxs_idle hm ha hb fun hen => hv hen.2
      exact hrxs.trans (by simp [hidle])
    · rintro rfl
      exact writeSecond_rxStatus hm hp ha hb
    · rintro rfl
      obtain ⟨htxs, htxq, hlive, hbacking⟩ := writeSecond_txStatus hm hp hwf ha hb
      refine ⟨htxs, htxq, ?_⟩
      split
      next h => exact hlive h
      next h => exact hbacking h
    · rintro rfl
      obtain ⟨hcell, htxq, htxs⟩ := writeSecond_txData hm hp hwf ha hb
      exact ⟨hcell, fun he => ⟨htxq.trans (by simp [he]), htxs.trans (by simp [he])⟩,
        fun he => ⟨htxq.trans (by simp [he]), htxs.trans (by simp [he])⟩⟩
    · exact fun hrs => writeSecond_rxs_idle hm ha hb fun hen => hrs hen.1
  · obtain ⟨v, hv⟩ := Option.ne_none_iff_exists'.mp hb
    rw [exec_eq_runWord]
    refine runWord_held hs hcw ?_
    simp [writeIsHeld, ha, hv, Instr.control, MicroInstr.writes, transmitBlocked_full hp he hfull]

/-- Settles O44: a fault and a Hold store nothing, and a Step that ends stores by its write cycle 2 and its poll. -/
theorem memoryFrameOfEveryInstruction : Obligations.MemoryFrameOfEveryInstruction := by
  intro i s t b h hw hp
  rw [exec_eq_runWord] at h
  rcases runWord_next_inv h with ⟨f, rfl⟩ | rfl | ⟨-, rfl⟩
  · rfl
  · rfl
  · exact cell_afterCycle hw hp

/-- Settles O56, by induction on the words: the bytes of a word, joined again, are the word. -/
theorem imagesAreBigEndian : Obligations.ImagesAreBigEndian :=
  ⟨controlStoreImage_bytes, memoryImage_bytes, decodeBytes_bytes⟩

end Sys2Proof.Proofs

/-! PROOFS. The statements of 30_encoding.md: fields as numbers (R102, R103), the names of a word (R101, R119), the
fields a microinstruction ignores (R113), NOP (R114), and the assembly rule (R116, R117). -/

namespace Sys2Proof

/-! ## A field as a number (R102, R103) -/

theorem getLsbD_iff_div_mod {n : Nat} (w : BitVec n) (i : Nat) :
    w.getLsbD i = true ↔ w.toNat / 2 ^ i % 2 = 1 := by
  rw [BitVec.getLsbD, Nat.testBit_eq_decide_div_mod_eq, decide_eq_true_iff]

theorem extract_toNat (w : ControlWord) (lo n : Nat) :
    (w.extractLsb' lo n).toNat = w.toNat / 2 ^ lo % 2 ^ n := by
  rw [BitVec.extractLsb'_toNat, Nat.shiftRight_eq_div_pow]

/-- A field that fits at its place is shifted there without loss. -/
theorem placeField_toNat {n lo : Nat} (v : BitVec n) (h : lo + n ≤ 32) :
    (placeField v lo).toNat = v.toNat <<< lo := by
  have hwidth : (v.setWidth 32).toNat = v.toNat := BitVec.toNat_setWidth_of_le (by omega)
  have hfits : v.toNat <<< lo < 2 ^ 32 :=
    calc v.toNat <<< lo = v.toNat * 2 ^ lo := Nat.shiftLeft_eq ..
      _ < 2 ^ n * 2 ^ lo := Nat.mul_lt_mul_of_pos_right v.isLt (by positivity)
      _ = 2 ^ (lo + n) := by rw [← pow_add, Nat.add_comm]
      _ ≤ 2 ^ 32 := Nat.pow_le_pow_right (by decide) h
  rw [placeField, BitVec.toNat_shiftLeft, hwidth, Nat.mod_eq_of_lt hfits]

/-! ## The fields of a word, put back in their places, are the word (R103) -/

/-- The bits of `w` from position `lo` up, in their places. -/
def bitsFrom (lo : Nat) (w : ControlWord) : ControlWord := w >>> lo <<< lo

theorem getLsbD_bitsFrom (lo : Nat) (w : ControlWord) (i : Nat) :
    (bitsFrom lo w).getLsbD i = (decide (lo ≤ i) && w.getLsbD i) := by
  by_cases hlo : lo ≤ i
  · have hi : lo + (i - lo) = i := by omega
    by_cases hw : i < 32
    · simp [bitsFrom, hlo, hw, hi]
    · simp [bitsFrom, hlo, hw, BitVec.getLsbD_of_ge w i (by omega)]
  · simp [bitsFrom, hlo]

/-- The next field down joins the bits above it. -/
theorem bitsFrom_or_placeField {lo n hi : Nat} (w : ControlWord) (h : hi = lo + n) :
    bitsFrom hi w ||| placeField (w.extractLsb' lo n) lo = bitsFrom lo w := by
  apply BitVec.eq_of_getLsbD_eq
  intro i hi'
  simp only [BitVec.getLsbD_or, getLsbD_bitsFrom, getLsbD_placeField, BitVec.getLsbD_extractLsb', h]
  by_cases hlo : lo ≤ i
  · have hidx : lo + (i - lo) = i := by omega
    by_cases hin : i < lo + n
    · have : i - lo < n := by omega
      simp [hlo, hi', hidx, this]
    · simp [hlo, hi', hidx, Nat.le_of_not_lt hin]
  · have : ¬ lo + n ≤ i := by omega
    simp [hlo, this]

theorem ofBool_getLsbD (w : ControlWord) (i : Nat) : BitVec.ofBool (w.getLsbD i) = w.extractLsb' i 1 := by
  apply BitVec.eq_of_getLsbD_eq
  intro j hj
  obtain rfl : j = 0 := by omega
  simp

theorem encodeFields_decodeFields (w : ControlWord) : encodeFields (decodeFields w) = w := by
  have htop : placeField (w.extractLsb' 31 1) 31 = bitsFrom 31 w := by
    simpa [bitsFrom] using bitsFrom_or_placeField (hi := 32) (lo := 31) (n := 1) w rfl
  simp (disch := rfl) only [encodeFields, decodeFields, ABus.code_ofCode, Cond.code_ofCode, AluFn.code_ofCode,
    ShiftFn.code_ofCode, ofBool_getLsbD, htop, bitsFrom_or_placeField]
  simp [bitsFrom]

theorem encode_decode (w : ControlWord) : encode (decode w) = w := by
  rw [encode, decode, control_nameOf, encodeFields_decodeFields]

theorem encodeFields_toNat (m : MicroInstr) :
    (encodeFields m).toNat =
      m.amux.code.toNat <<< 31 ||| m.cond.code.toNat <<< 29 ||| m.alu.code.toNat <<< 27 ||| m.sh.code.toNat <<< 25
        ||| m.mbr.toNat <<< 24 ||| m.mar.toNat <<< 23 ||| m.rd.toNat <<< 22 ||| m.wr.toNat <<< 21
        ||| m.enc.toNat <<< 20 ||| m.c.toNat <<< 16 ||| m.b.toNat <<< 12 ||| m.a.toNat <<< 8 ||| m.addr.toNat := by
  simp [encodeFields, placeField_toNat]

/-! ## The names of a word (R101, R119) -/

theorem nameOf_noGroup {m : MicroInstr} (h : m.active = []) : nameOf m = nameOfOperands m := by
  simp only [nameOf, h]

theorem nameOf_oneGroup {m : MicroInstr} {g : Group} (h : m.active = [g]) : nameOf m = nameOfGroup g m := by
  simp only [nameOf, h]

theorem nameOf_manyGroups {m : MicroInstr} (h : 2 ≤ m.active.length) : nameOf m = .microinstruction m := by
  unfold nameOf
  split
  next h0 => simp [h0] at h
  next h1 => simp [h1] at h
  next => rfl

/-- The argument of an instruction's constructor; that of `nop` is the word 0. -/
def Instr.argument : Instr → MicroInstr
  | .nop => .zero
  | .microinstruction m
  | .amuxReg m | .amuxMbr m
  | .condNone m | .condN m | .condZ m | .condJump m
  | .aluAdd m | .aluAnd m | .aluPassA m | .aluInvA m
  | .shNone m | .shRight m | .shLeft m | .shReserved m
  | .mbrHold m | .mbrLatch m | .marHold m | .marLatch m
  | .memNone m | .memWrite m | .memRead m | .memRdWrHalt m
  | .regHold m | .regWrite m => m

/-- The decoder names the fields of a well-formed instruction by that instruction: many active groups by
MICROINSTRUCTION, none by the operands, one by its group and the code in it (log 7). -/
theorem nameOf_argument {i : Instr} (h : i.wellFormed = true) : nameOf i.argument = i := by
  cases i with
  | nop => rfl
  | microinstruction m => exact nameOf_manyGroups (of_decide_eq_true h)
  | amuxReg m | condNone m | aluAdd m | shNone m | mbrHold m | marHold m | memNone m | regHold m =>
    simp only [Instr.wellFormed, decide_eq_true_eq] at h
    obtain ⟨hnone, hoperands⟩ := h
    simp only [Instr.argument, nameOf_noGroup hnone, nameOfOperands, hoperands, ne_eq, not_true_eq_false,
      not_false_eq_true, and_self, if_true, if_false]
  | condN m | condZ m | condJump m | aluAnd m | aluPassA m | aluInvA m | shRight m | shLeft m | shReserved m
  | memRdWrHalt m =>
    simp only [Instr.wellFormed, decide_eq_true_eq] at h
    obtain ⟨hone, hcode⟩ := h
    simp [Instr.argument, nameOf_oneGroup hone, nameOfGroup, hcode]
  | amuxMbr m | mbrLatch m | marLatch m | regWrite m =>
    simp only [Instr.wellFormed, decide_eq_true_eq] at h
    rw [Instr.argument, nameOf_oneGroup h, nameOfGroup]
  | memWrite m | memRead m =>
    simp only [Instr.wellFormed, decide_eq_true_eq] at h
    obtain ⟨hone, hcode⟩ := h
    have hrequest : m.rd = true ∨ m.wr = true := (mem_active .memRequest m).mp (by simp [hone])
    simp only [hcode, Bool.false_eq_true, false_or, or_false] at hrequest
    simp only [Instr.argument, nameOf_oneGroup hone, nameOfGroup, hcode, hrequest]

/-- A well-formed instruction holds its row's own value in its row's group already. -/
theorem control_eq_argument {i : Instr} (h : i.wellFormed = true) : i.control = i.argument :=
  calc i.control = (nameOf i.argument).control := by rw [nameOf_argument h]
    _ = i.argument := control_nameOf _

theorem decode_encode (i : Instr) : decode (encode i) = nameOf i.control := by
  rw [decode, encode, decodeFields_encodeFields]

end Sys2Proof

namespace Sys2Proof.Machine

/-! ## The fields a microinstruction ignores (R113) -/

/-- The Step reads the word's operands and control fields through what they select: two words that select the same
function result, latches, sequencing, shift and request have the same Step. -/
theorem runWord_congr {m n : MicroInstr} {s : State} (hresult : cycleResult n s = cycleResult m s)
    (hmar : latchMar n (bBus n s) s = latchMar m (bBus m s) s) (hreg : latchReg n = latchReg m)
    (hseq : sequence n = sequence m) (hmbr : n.mbr = m.mbr) (hsh : n.sh = m.sh) (hrd : n.rd = m.rd)
    (hwr : n.wr = m.wr) : runWord n s = runWord m s := by
  have hout : cycleOutput n s = cycleOutput m s := by rw [cycleOutput, cycleOutput, hsh, hresult]
  have hfault : shiftFaults n s = shiftFaults m s := by rw [shiftFaults, shiftFaults, hsh]
  have hlatch : latchMbr n = latchMbr m := by
    funext v t
    rw [latchMbr, latchMbr, hmbr]
  have hdata : datapath n s = datapath m s := by
    simp only [datapath, hfault, hout, hlatch, hmar, hreg, hseq, hresult]
  have hbus : memoryBus n = memoryBus m := by
    funext start t
    rw [memoryBus, memoryBus, hrd, hwr]
  rw [runWord, runWord, microCycle, microCycle, hdata, hbus]

theorem cycleResult_ignores_a {m : MicroInstr} (h : m.amux = .mbr) (x : RegIx) (s : State) :
    cycleResult { m with a := x } s = cycleResult m s := by
  simp only [cycleResult, aBus, bBus, h]

theorem latchReg_ignores_c {m : MicroInstr} (h : m.enc = false) (x : RegIx) :
    latchReg { m with c := x } = latchReg m := by
  funext v s
  simp [latchReg, h]

theorem sequence_ignores_addr {m : MicroInstr} (h : m.cond = .none) (x : MicroAddr) :
    sequence { m with addr := x } = sequence m := by
  funext f s
  simp [sequence, nextMpc, condTaken, h]

theorem cycleResult_ignores_b {m : MicroInstr} (h : m.alu = .passA ∨ m.alu = .invA) (x : RegIx) (s : State) :
    cycleResult { m with b := x } s = cycleResult m s := by
  rcases h with h | h <;> simp only [cycleResult, aluResult, aBus, h]

theorem latchMar_ignores_b {m : MicroInstr} (h : m.mar = false) (x : RegIx) (s : State) :
    latchMar { m with b := x } (bBus { m with b := x } s) s = latchMar m (bBus m s) s := by
  simp [latchMar, h]

/-- B reaches a word that passes A or its complement through MAR only. -/
theorem runWord_ignores_b {m : MicroInstr} (hmar : m.mar = false) (halu : m.alu = .passA ∨ m.alu = .invA) (x : RegIx)
    (s : State) : runWord { m with b := x } s = runWord m s :=
  runWord_congr (cycleResult_ignores_b halu x s) (latchMar_ignores_b hmar x s) rfl rfl rfl rfl rfl rfl

/-! ## The word 0 (R114) -/

theorem cycleCompletes_zero (s : State) : cycleCompletes .zero s = true := by
  have hheld : writeIsHeld .zero s = false := by
    unfold writeIsHeld
    split <;> rfl
  rw [cycleCompletes, hheld]
  rfl

theorem afterDatapath_zero (s : State) : afterDatapath .zero s = { s with mpc := s.mpc + 1 } := rfl

theorem afterCycle_zero (s : State) : afterCycle .zero s = endOfStep { s with mpc := s.mpc + 1 } := by
  rw [afterCycle_eq rfl, afterDatapath_zero, afterRequest_none rfl rfl]

theorem exec_nop (s : State) : exec .nop s = .next (endOfStep { s with mpc := s.mpc + 1 }) := by
  rw [exec_eq_runWord, Instr.control, runWord_completes (cycleCompletes_zero s), afterCycle_zero]

/-! ## The assembly rule (R116, R117) -/

/-- MBR, a register or a conditional jump takes the ALU output of `m`, so that some statement shows it (R116). -/
def usesOutput (m : MicroInstr) : Bool := m.mbr || m.enc || decide (m.cond = .negative ∨ m.cond = .zero)

/-- `m` has no statement at all (R116). -/
def noStatement (m : MicroInstr) : Bool :=
  !usesOutput m && !m.mar && !m.rd && !m.wr && decide (m.cond = .none)

theorem usesOutput_eq_false_iff (m : MicroInstr) :
    usesOutput m = false ↔ m.mbr = false ∧ m.enc = false ∧ m.cond ≠ .negative ∧ m.cond ≠ .zero := by
  simp only [usesOutput, Bool.or_eq_false_iff, decide_eq_false_iff_not, not_or, and_assoc, ne_eq]

theorem noStatement_iff (m : MicroInstr) :
    noStatement m = true ↔
      usesOutput m = false ∧ m.mar = false ∧ m.rd = false ∧ m.wr = false ∧ m.cond = .none := by
  simp only [noStatement, Bool.and_eq_true, Bool.not_eq_true', decide_eq_true_eq, and_assoc]

theorem assembled_eq (m : MicroInstr) :
    assembled m =
      if noStatement m then .zero
      else
        { m with
          amux := if usesOutput m then m.amux else .reg
          alu := if usesOutput m then m.alu else .passA
          sh := if usesOutput m then m.sh else .none
          a := if usesOutput m && decide (m.amux = .reg) then m.a else 0
          b := if m.mar || (usesOutput m && decide (m.alu = .add ∨ m.alu = .and)) then m.b else 0
          c := if m.enc then m.c else 0
          addr := if m.cond = .none then 0 else m.addr } := rfl

theorem assembled_noStatement {m : MicroInstr} (h : noStatement m = true) : assembled m = .zero := by
  rw [assembled_eq, if_pos h]

theorem assembled_outputUnused {m : MicroInstr} (h : noStatement m = false) (hout : usesOutput m = false) :
    assembled m =
      { m with amux := .reg, alu := .passA, sh := .none, a := 0, b := if m.mar then m.b else 0, c := 0,
               addr := if m.cond = .none then 0 else m.addr } := by
  obtain ⟨-, henc, -⟩ := (usesOutput_eq_false_iff m).mp hout
  simp [assembled_eq, h, hout, henc]

theorem assembled_outputUsed {m : MicroInstr} (hout : usesOutput m = true) :
    assembled m =
      { m with a := if m.amux = .reg then m.a else 0,
               b := if m.mar || decide (m.alu = .add ∨ m.alu = .and) then m.b else 0,
               c := if m.enc then m.c else 0, addr := if m.cond = .none then 0 else m.addr } := by
  simp [assembled_eq, noStatement, hout]

/-- The statements read B for MAR, C for a register target, ADDR for a jump, and the ALU term where the output is
used. -/
theorem statements_congr {r : RegIndex} {m n : MicroInstr} (hmar : n.mar = m.mar) (hmbr : n.mbr = m.mbr)
    (henc : n.enc = m.enc) (hrd : n.rd = m.rd) (hwr : n.wr = m.wr) (hcond : n.cond = m.cond)
    (hb : m.mar = true → n.b = m.b) (hc : m.enc = true → n.c = m.c) (haddr : m.cond ≠ .none → n.addr = m.addr)
    (hterm : usesOutput m = true → shiftedTerm r n = shiftedTerm r m) : statements r n = statements r m := by
  have hmarText : (if m.mar then ["mar:=" ++ registerName r n.b] else []) =
      if m.mar then ["mar:=" ++ registerName r m.b] else [] :=
    ite_congr rfl (fun h => by rw [hb h]) fun _ => rfl
  have hmbrText : (if m.mbr then ["mbr:=" ++ shiftedTerm r n] else []) =
      if m.mbr then ["mbr:=" ++ shiftedTerm r m] else [] :=
    ite_congr rfl (fun h => by rw [hterm (by simp [usesOutput, h])]) fun _ => rfl
  have hencText : (if m.enc then [registerName r n.c ++ ":=" ++ shiftedTerm r n] else []) =
      if m.enc then [registerName r m.c ++ ":=" ++ shiftedTerm r m] else [] :=
    ite_congr rfl (fun h => by rw [hc h, hterm (by simp [usesOutput, h])]) fun _ => rfl
  have haluText :
      (if !m.mbr && !m.enc && decide (m.cond = .negative ∨ m.cond = .zero) then ["alu:=" ++ shiftedTerm r n] else []) =
      if !m.mbr && !m.enc && decide (m.cond = .negative ∨ m.cond = .zero) then ["alu:=" ++ shiftedTerm r m] else [] := by
    refine ite_congr rfl (fun h => ?_) fun _ => rfl
    have hjump := (Bool.and_eq_true_iff.mp h).2
    rw [hterm (by rw [usesOutput, hjump, Bool.or_true])]
  simp only [statements, hmar, hmbr, henc, hrd, hwr, hcond, hmarText, hmbrText, hencText, haluText]
  by_cases hjump : m.cond = .none
  · simp only [hjump]
  · rw [haddr hjump]

/-- The ALU term does not show A beside MBR, nor B where the ALU passes A or its complement. -/
theorem shiftedTerm_congr {r : RegIndex} {m n : MicroInstr} (hamux : n.amux = m.amux) (halu : n.alu = m.alu)
    (hsh : n.sh = m.sh) (ha : m.amux = .reg → n.a = m.a) (hb : m.alu = .add ∨ m.alu = .and → n.b = m.b) :
    shiftedTerm r n = shiftedTerm r m := by
  have hsource : sourceName r n = sourceName r m := by
    cases h : m.amux <;> simp [sourceName, hamux, h, ha]
  have hterm : aluTerm r n = aluTerm r m := by
    cases h : m.alu <;> simp [aluTerm, halu, h, hsource, hb]
  simp only [shiftedTerm, hsh, hterm]

/-- The assembly rule keeps every field that a statement shows. -/
theorem statements_assembled (r : RegIndex) (m : MicroInstr) : statements r (assembled m) = statements r m := by
  cases hout : usesOutput m with
  | true =>
    rw [assembled_outputUsed hout]
    exact statements_congr rfl rfl rfl rfl rfl rfl (fun h => by simp [h]) (fun h => if_pos h) (fun h => if_neg h)
      fun _ => shiftedTerm_congr rfl rfl rfl (fun h => if_pos h) (fun h => by simp [h])
  | false =>
    cases hnone : noStatement m with
    | true =>
      obtain ⟨-, hmar, hrd, hwr, hcond⟩ := (noStatement_iff m).mp hnone
      obtain ⟨hmbr, henc, -⟩ := (usesOutput_eq_false_iff m).mp hout
      rw [assembled_noStatement hnone]
      simp [statements, MicroInstr.zero, hmar, hrd, hwr, hcond, hmbr, henc]
    | false =>
      obtain ⟨-, henc, -⟩ := (usesOutput_eq_false_iff m).mp hout
      rw [assembled_outputUnused hnone hout]
      exact statements_congr rfl rfl rfl rfl rfl rfl (fun h => if_pos h) (fun h => by simp [henc] at h)
        (fun h => if_neg h) (fun h => by simp [hout] at h)

theorem encodeFields_zero : encodeFields .zero = 0 := rfl

theorem assembled_c_of_noTarget {m : MicroInstr} (h : m.enc = false) : (assembled m).c = 0 := by
  rw [assembled_eq]
  split
  · rfl
  · simp [h]

theorem assembled_addr_of_noJump {m : MicroInstr} (h : m.cond = .none) : (assembled m).addr = 0 := by
  simp only [assembled_eq, h, if_true]
  split <;> rfl

theorem assembled_a_of_mbr {m : MicroInstr} (h : m.amux = .mbr) : (assembled m).a = 0 := by
  rw [assembled_eq]
  split
  · rfl
  · simp [h]

theorem assembled_b_of_unused {m : MicroInstr} (hmar : m.mar = false)
    (h : usesOutput m = false ∨ m.alu = .passA ∨ m.alu = .invA) : (assembled m).b = 0 := by
  have halu : (usesOutput m && decide (m.alu = .add ∨ m.alu = .and)) = false := by
    rcases h with h | h | h <;> simp [h]
  rw [assembled_eq]
  split
  · rfl
  · simp only [hmar, halu, Bool.or_self, Bool.false_eq_true, if_false]

theorem assembled_alu_of_unused {m : MicroInstr} (hout : usesOutput m = false)
    (h : m.mar = true ∨ m.rd = true ∨ m.wr = true ∨ m.cond = .jump) : (assembled m).alu = .passA := by
  have hsome : noStatement m = false := by
    rcases h with h | h | h | h <;> simp [noStatement, h]
  rw [assembled_outputUnused hsome hout]

theorem assembled_amux_sh_a_of_unused {m : MicroInstr} (hout : usesOutput m = false) :
    (assembled m).amux = .reg ∧ (assembled m).sh = .none ∧ (assembled m).a = 0 := by
  rw [assembled_eq]
  split
  · exact ⟨rfl, rfl, rfl⟩
  · simp [hout]

end Sys2Proof.Machine

namespace Sys2Proof.Proofs

open Sys2Proof.Machine

/-- Settles O3: both sides of the round trip name the same fields, and a well-formed name is the decoder's own. -/
theorem decodeOfEncodeIsTheInstruction : Obligations.DecodeOfEncodeIsTheInstruction := by
  intro i h
  rw [decode_encode, control_eq_argument h, nameOf_argument h]

/-- Settles O1: each field is the quotient and remainder of the word that its bit positions name. -/
theorem decodeCutsOutEveryField : Obligations.DecodeCutsOutEveryField := by
  intro w
  have hamux : (decodeFields w).amux.code.toNat = w.toNat / 2 ^ 31 := by
    rw [decodeFields, ABus.code_ofCode, extract_toNat]
    have := w.isLt
    omega
  refine ⟨hamux, ?_, ?_, ?_, ?_, ?_, ?_, ?_, ?_, ?_, ?_, ?_, ?_, control_nameOf _, rfl, rfl⟩
  all_goals simp only [decodeFields, Cond.code_ofCode, AluFn.code_ofCode, ShiftFn.code_ofCode,
    extract_toNat, getLsbD_iff_div_mod, Nat.reducePow, Nat.div_one]

/-- Settles O2: the decoder keeps the fields of the word, and each field goes back to the place it was cut from. -/
theorem encodeOfDecodeIsTheWord : Obligations.EncodeOfDecodeIsTheWord :=
  ⟨encode_decode, encodeFields_toNat⟩

/-- Settles O4: the decoder's name is well formed, and `exec` looks at the fields of a name only. -/
theorem everyNameOfAWordMeansTheSame : Obligations.EveryNameOfAWordMeansTheSame := by
  refine ⟨fun w => wellFormed_nameOf _, fun i s => ?_⟩
  rw [decode_encode, exec_nameOf, exec_eq_runWord]

/-- Settles O6: each ignored field drops out of the one part of the Step that could read it. -/
theorem ignoredFieldsDoNotMatter : Obligations.IgnoredFieldsDoNotMatter := by
  simp only [Obligations.IgnoredFieldsDoNotMatter, exec_eq_runWord]
  refine ⟨fun m x s => ?_, fun m x s => ?_, fun m x s => ?_, fun m x s hmar => ⟨?_, ?_⟩,
    fun m s fn _ hmar hhalts hc => ?_⟩
  · exact runWord_congr (cycleResult_ignores_a (m := (Instr.amuxMbr m).control) rfl x s) rfl rfl rfl rfl rfl rfl rfl
  · exact runWord_congr rfl rfl (latchReg_ignores_c (m := (Instr.regHold m).control) rfl x) rfl rfl rfl rfl rfl
  · exact runWord_congr rfl rfl rfl (sequence_ignores_addr (m := (Instr.condNone m).control) rfl x) rfl rfl rfl rfl
  · exact runWord_ignores_b (m := (Instr.aluPassA m).control) hmar (.inl rfl) x s
  · exact runWord_ignores_b (m := (Instr.aluInvA m).control) hmar (.inr rfl) x s
  · obtain ⟨hlatched, -⟩ := latched_afterCycle (m := { m with alu := fn }) hhalts s
    exact ⟨_, runWord_completes hc, hlatched.trans (if_pos hmar)⟩

/-- Settles O11: sub-steps 2 to 8 of the word 0 advance MPC only, and sub-steps 9 to 11 leave the rest. -/
theorem nopIsCountedAndFallsThrough : Obligations.NopIsCountedAndFallsThrough := by
  refine ⟨rfl, fun s => ⟨_, exec_nop s, rfl, ?_⟩⟩
  have hcells : ∀ a, a ≠ s.params.rxDataAddr ∨ pollTakes s = false →
      (endOfStep { s with mpc := s.mpc + 1 }).cell a = s.cell a := fun a h => cell_endOfStep h
  simpa [StepFrame] using hcells

/-- Settles O57: the assembly rule drops only what no statement shows, and each dropped field is 0. -/
theorem assemblyRuleFillsUnusedFields : Obligations.AssemblyRuleFillsUnusedFields := by
  refine ⟨statements_assembled, fun m => ⟨assembled_c_of_noTarget, assembled_addr_of_noJump, assembled_a_of_mbr,
    fun hmar halu => assembled_b_of_unused hmar (.inr halu), fun hmbr henc hneg hzero => ?_⟩, rfl, rfl, rfl, rfl⟩
  have hout : usesOutput m = false := (usesOutput_eq_false_iff m).mpr ⟨hmbr, henc, hneg, hzero⟩
  obtain ⟨hamux, hsh, ha⟩ := assembled_amux_sh_a_of_unused hout
  refine ⟨hamux, hsh, ha, assembled_c_of_noTarget henc, fun hmar => assembled_b_of_unused hmar (.inl hout),
    assembled_alu_of_unused hout, fun hmar hrd hwr hcond => ?_⟩
  rw [assembled_noStatement ((noStatement_iff m).mpr ⟨hout, hmar, hrd, hwr, hcond⟩), encodeFields_zero]

/-- Settles O5: the names are computed from the words. -/
theorem wordsOfTheSpecDecode : Obligations.WordsOfTheSpecDecode := by
  unfold Obligations.WordsOfTheSpecDecode
  decide

end Sys2Proof.Proofs

/-! PROOFS. The statements of 40_datapath.md: the Step of the fetched word (R140), the completed Step and its frame (R141),
the operands and latches (R142, R143), the register write (R144, R145), and the held Step that a pop lets run (R141). -/

namespace Sys2Proof.Machine

/-! ## The fetched word (R140) -/

theorem tableWord_toNat (w : ControlWord) : tableWord 32 w.toNat = w := by
  rw [tableWord, Nat.mod_eq_of_lt w.isLt, BitVec.ofNat_toNat, BitVec.setWidth_eq]

theorem step_decoded {s : State} {w : ControlWord} {bp : Bool} (hf : s.fault = none)
    (hs : ControlStore.slot s.cs s.mpc = some { mi := decodeFields w, bp := bp }) : step s = exec (decode w) s := by
  rw [step_defined hf hs, decode, exec_nameOf]

theorem slot_withControlWord (s : State) (w : ControlWord) :
    ControlStore.slot (s.withControlWord w).cs (s.withControlWord w).mpc = some (freshSlot w) :=
  ControlStore.slot_define_same s.cs s.mpc (freshSlot w)

/-! ## The latches of a completed Step (R142 to R144) -/

/-- What sub-steps 2 to 7 leave alone by their fields: registers without ENC, MAR without MAR, MBR without MBR. -/
def LatchFrame (m : MicroInstr) (s t : State) : Prop :=
  (∀ r, (m.enc = true → r ≠ m.c) → t.readReg r = s.readReg r) ∧
  (m.mar = false → t.mar = s.mar) ∧
  (m.mbr = false → MicroInstr.reads m = false → t.mbr = s.mbr)

theorem writesRegister_eq_false {m : MicroInstr} {r : RegIx} (h : m.enc = true → r ≠ m.c) (s : State) :
    writesRegister m s r = false := by
  rw [← Bool.not_eq_true, writesRegister_iff]
  exact fun ⟨henc, hr, _⟩ => h henc hr

theorem latchFrame_of_latched {m : MicroInstr} {f out : Word} {s t : State} (h : Latched m f out s t) :
    LatchFrame m s t := by
  obtain ⟨hmar, hmbr, hreg, -⟩ := h
  refine ⟨fun r hr => ?_, fun h => ?_, fun h hread => ?_⟩
  · simp [hreg, writesRegister_eq_false hr]
  · simp [hmar, h]
  · simp [hmbr, h, hread]

/-- MBR takes the output, unless a read cycle 2 of the same Step loads it (R143). -/
theorem Latched.mbr_of_noLoad {m : MicroInstr} {f out : Word} {s t : State} (h : Latched m f out s t)
    (hload : m.rd = false ∨ s.stgA = none) : t.mbr = if m.mbr then out else s.mbr := by
  obtain ⟨-, hmbr, -⟩ := h
  refine hmbr ?_
  rcases hload with hrd | ha
  · simp [MicroInstr.reads, hrd]
  · simp [ha]

/-- The register write by the destination (R144, R145). -/
theorem Latched.readReg_scratch {m : MicroInstr} {f out : Word} {s t : State} (h : Latched m f out s t)
    (henc : m.enc = true) (hc : m.c ∉ s.params.regIndex.constants) :
    t.readReg m.c = out ∧ ∀ i, i ≠ m.c → t.readReg i = s.readReg i := by
  obtain ⟨hkept, -⟩ := latchFrame_of_latched h
  obtain ⟨-, -, hreg, -⟩ := h
  exact ⟨(hreg m.c).trans (if_pos ((writesRegister_iff m s m.c).mpr ⟨henc, rfl, hc⟩)), fun i hi => hkept i fun _ => hi⟩

theorem Latched.readReg_constant {m : MicroInstr} {f out : Word} {s t : State} (h : Latched m f out s t)
    (hc : m.c ∈ s.params.regIndex.constants) (i : RegIx) : t.readReg i = s.readReg i := by
  obtain ⟨-, -, hreg, -⟩ := h
  refine (hreg i).trans (if_neg fun hw => ?_)
  obtain ⟨-, rfl, hfree⟩ := (writesRegister_iff m s i).mp hw
  exact hfree hc

/-! ## Where MBR goes at sub-step 8 (R143) -/

theorem reads_of_not_halts {m : MicroInstr} (hh : MicroInstr.halts m = false) (hrd : m.rd = true) :
    MicroInstr.reads m = true := by
  simpa [MicroInstr.reads, MicroInstr.halts, hrd] using hh

theorem halts_of_writes {m : MicroInstr} (hm : MicroInstr.writes m = true) : MicroInstr.halts m = false := by
  simp_all [MicroInstr.writes, MicroInstr.halts]

/-- A read cycle 2 leaves the word read in MBR, whatever the latch took. -/
theorem afterCycle_mbr_loaded {m : MicroInstr} {s : State} {a : Addr} (hh : MicroInstr.halts m = false)
    (hrd : m.rd = true) (ha : s.stgA = some a) : (afterCycle m s).mbr = memReadValue a s :=
  (readSecond_frame (reads_of_not_halts hh hrd) ha).1

/-- A write cycle 1 takes its snapshot of MBR after the latch of the same Step. -/
theorem afterCycle_stgB_writeFirst {m : MicroInstr} {s : State} (hrd : m.rd = false) (hwr : m.wr = true)
    (ha : s.stgA = none) : (afterCycle m s).stgB = some (if m.mbr then cycleOutput m s else s.mbr) := by
  rw [afterCycle_eq (by simp [MicroInstr.halts, hrd]), afterRequest_writeFirst hrd hwr (by simpa using ha),
    endOfStep_stgB, afterDatapath_mbr]

/-- A write cycle 2 to a plain address stores the snapshot, whatever the latch of the same Step took. -/
theorem afterCycle_cell_writeSecond {m : MicroInstr} {s : State} {a : Addr} {v : Word} (hrd : m.rd = false)
    (hwr : m.wr = true) (ha : s.stgA = some a) (hb : s.stgB = some v) (hplain : a ∉ s.params.deviceAddrs)
    (hwf : Memory.wf s.mem = true) : (afterCycle m s).cell a = v := by
  obtain ⟨hrx, hrs, htd, hts⟩ := (not_mem_deviceAddrs_iff _ _).mp hplain
  exact (writeSecond_store (by simp [MicroInstr.writes, hrd, hwr]) ha hb hwf hrs hts htd).1 (.inl hrx)

/-! ## A register write to a constant register (R145) -/

theorem latchReg_constant_discard {m : MicroInstr} {s : State} (v : Word) (hc : s.isConstantReg m.c = true)
    (hp : s.params.constWritePolicy = .discard) : latchReg m v s = .done s := by
  simp [latchReg, writeReg_spec, hc, hp]

/-- Under policy discard a write to a constant register is no write: the Step is that of the word with ENC = 0. -/
theorem runWord_constant_discard {m : MicroInstr} {s : State} (hc : m.c ∈ s.params.regIndex.constants)
    (hp : s.params.constWritePolicy = .discard) :
    runWord { m with enc := true } s = runWord { m with enc := false } s := by
  have hdata : datapath { m with enc := true } s = datapath { m with enc := false } s := by
    have hlatch : ∀ (e : Bool) (v : Word) (t : State), t.params = s.params →
        latchReg { m with enc := e } v t = .done t := fun e v t ht =>
      latchReg_constant_discard v ((isConstantReg_congr ht m.c).trans ((isConstantReg_iff s m.c).mpr hc)) (ht ▸ hp)
    rw [datapath, datapath, hlatch true _ _ (by simp), hlatch false _ _ (by simp)]
    rfl
  rw [runWord, runWord, microCycle, microCycle, hdata]
  rfl

/-- Under policy fault it records ConstantWrite and has no other effect. -/
theorem runWord_constant_fault {m : MicroInstr} {s : State} (henc : m.enc = true)
    (hc : m.c ∈ s.params.regIndex.constants) (hp : s.params.constWritePolicy = .fault)
    (hs : shiftFaults m s = false) (hf : s.fault = none) :
    runWord m s = .next { s with fault := some .constantWrite } := by
  have hfaults : constantWriteFaults m s = true := by simp [constantWriteFaults, henc, State.isConstantReg, hc, hp]
  rw [runWord, microCycle_constantWrite hs hfaults, commit, raise, hf]
  rfl

/-! ## The fields a Step may change (R140, R141) -/

theorem endOfStep_rxq_cases (s : State) :
    (endOfStep s).rxq = s.rxq ∨ ∃ byte, s.rxq = byte :: (endOfStep s).rxq := by
  rw [endOfStep_rxq]
  split
  next htakes =>
    cases hq : s.rxq with
    | nil => exact .inl rfl
    | cons byte rest => exact .inr ⟨byte, rfl⟩
  next => exact .inl rfl

/-- A halt leaves the datapath of the Step's start or of its sub-step 7, and touches the bus by the poll alone. -/
theorem rdWrHalt_cases (start s : State) :
    rdWrHalt start s = setDesired .halt s ∨ rdWrHalt start s = setDesired .halt start ∨
    rdWrHalt start s = endOfStep (setDesired .halt s) := by
  cases h : s.params.rdwrHaltPoint with
  | afterSequencing => exact .inl (rdWrHalt_afterSequencing h start)
  | discardAll => exact .inr (.inl (rdWrHalt_discardAll h start))
  | complete => exact .inr (.inr (rdWrHalt_complete h start))

theorem afterCycle_halts_cases {m : MicroInstr} (hh : MicroInstr.halts m = true) (s : State) :
    afterCycle m s = setDesired .halt (afterDatapath m s) ∨ afterCycle m s = setDesired .halt s ∨
    afterCycle m s = endOfStep (setDesired .halt (afterDatapath m s)) := by
  rw [afterCycle, if_pos hh]
  exact rdWrHalt_cases s (afterDatapath m s)

theorem latchFrame_afterCycle (m : MicroInstr) (s : State) : LatchFrame m s (afterCycle m s) := by
  cases hh : MicroInstr.halts m with
  | false => exact latchFrame_of_latched (latched_afterCycle hh s)
  | true =>
    have hdata := latchFrame_of_latched (latched_afterDatapath m s)
    rcases afterCycle_halts_cases hh s with h | h | h
    · exact h ▸ hdata
    · rw [h]; exact ⟨fun _ _ => rfl, fun _ => rfl, fun _ _ => rfl⟩
    · rw [h]
      simpa [LatchFrame, State.readReg] using hdata

/-- Without exactly one request STG_A stays (10_state.md R28). -/
theorem afterCycle_stgA_kept {m : MicroInstr} (h : m.rd = m.wr) (s : State) : (afterCycle m s).stgA = s.stgA := by
  cases hh : MicroInstr.halts m with
  | false =>
    have hrd : m.rd = false := by simpa [MicroInstr.halts, ← h] using hh
    rw [afterCycle_eq hh, afterRequest_none hrd (h ▸ hrd)]
    simp
  | true => rcases afterCycle_halts_cases hh s with h | h | h <;> simp [h]

theorem afterCycle_rxq_cases (m : MicroInstr) (s : State) :
    (afterCycle m s).rxq = s.rxq ∨ ∃ byte, s.rxq = byte :: (afterCycle m s).rxq := by
  cases hh : MicroInstr.halts m with
  | false =>
    rw [afterCycle_eq hh]
    simpa using endOfStep_rxq_cases (afterRequest m (afterDatapath m s))
  | true =>
    rcases afterCycle_halts_cases hh s with h | h | h
    · simp [h]
    · simp [h]
    · rw [h]
      simpa using endOfStep_rxq_cases (setDesired .halt (afterDatapath m s))

/-! ## The Hold, and the pop that lifts it (R141, 20_memory.md R71) -/

/-- A held Step is a write cycle 2 onto a full TXQ. -/
theorem writeIsHeld_inv {m : MicroInstr} {s : State} (h : writeIsHeld m s = true) :
    ∃ a v, MicroInstr.writes m = true ∧ s.stgA = some a ∧ s.stgB = some v ∧ s.txq.length = s.params.txqCap := by
  unfold writeIsHeld at h
  split at h
  next a v ha hb =>
    simp only [State.transmitBlocked, Bool.and_eq_true, decide_eq_true_eq] at h
    obtain ⟨hm, -, hfull⟩ := h
    exact ⟨a, v, hm, ha, hb, hfull⟩
  next => cases h

theorem stepHeld_held {s : State} {slot : Slot} (hf : s.fault = none)
    (hslot : ControlStore.slot s.cs s.mpc = some slot) (hs : shiftFaults slot.mi s = false)
    (hc : constantWriteFaults slot.mi s = false) (hh : writeIsHeld slot.mi s = true) : stepHeld s = true := by
  simp [stepHeld, hf, fetch, hslot, microCycle_held hs hc hh]

/-- A pop changes TXQ alone. -/
theorem txPop_state (s : State) : (txPop s).1 = { s with txq := s.txq.tail } := by
  unfold txPop
  split
  next hq => rw [hq, List.tail_cons]
  next hq => rw [hq, List.tail_nil, ← hq]

/-- A queue with room holds no Step. -/
theorem writeIsHeld_of_room {m : MicroInstr} {s : State} (h : s.txq.length ≠ s.params.txqCap) :
    writeIsHeld m s = false := by
  cases hh : writeIsHeld m s with
  | false => rfl
  | true =>
    obtain ⟨-, -, -, -, -, hfull⟩ := writeIsHeld_inv hh
    exact absurd hfull h

/-- A pop from a full TXQ makes room. -/
theorem txPop_room {s : State} (hfull : s.txq.length = s.params.txqCap) (hcap : 1 ≤ s.params.txqCap) :
    (txPop s).1.txq.length ≠ (txPop s).1.params.txqCap := by
  have hpopped : s.txq.tail.length ≠ s.params.txqCap := by
    rw [List.length_tail]
    omega
  rwa [txPop_state]

/-- The pop makes room, so the Step that was held runs to its end. -/
theorem cycleCompletes_txPop {m : MicroInstr} {s : State} (hs : shiftFaults m s = false)
    (hc : constantWriteFaults m s = false) (hh : writeIsHeld m s = true) (hcap : 1 ≤ s.params.txqCap) :
    cycleCompletes m (txPop s).1 = true := by
  obtain ⟨a, v, -, -, hb, hfull⟩ := writeIsHeld_inv hh
  have hfree : writeIsHeld m (txPop s).1 = false := writeIsHeld_of_room (txPop_room hfull hcap)
  have hs' : shiftFaults m (txPop s).1 = false := by rwa [txPop_state]
  have hc' : constantWriteFaults m (txPop s).1 = false := by rwa [txPop_state]
  have hsnapshot : writeIsStale m (txPop s).1 = false := by simp [txPop_state, writeIsStale, hb]
  simp [cycleCompletes, hs', hc', hsnapshot, hfree]

/-- The retry of a waiting loop runs the Step whatever Desired holds: its state is that of the Step from `s`, but for the
two fields of the loop. -/
theorem runTurn_retry_completes {s : State} {slot : Slot} (hwait : s.awaitingSpace = true)
    (hroom : s.txq.length ≠ s.params.txqCap) (hf : s.fault = none)
    (hslot : ControlStore.slot s.cs s.mpc = some slot) (hc : cycleCompletes slot.mi s = true)
    (hh : MicroInstr.halts slot.mi = false) :
    runTurn (setDesired .halt s) =
      .running { setDesired .halt (afterCycle slot.mi s) with awaitingSpace := false } := by
  have hrun : step (withLoopFields .halt false s) = runWord slot.mi (withLoopFields .halt false s) :=
    step_defined hf hslot
  have hstep : step (withLoopFields .halt false s) = .next (withLoopFields .halt false (afterCycle slot.mi s)) := by
    rw [hrun, runWord_completes (s := withLoopFields .halt false s) hc, afterCycle_loopFields hh]
  have hfault : (afterCycle slot.mi s).fault = none := by
    obtain ⟨-, -, -, -, hkept⟩ := stepFrame_afterCycle slot.mi s
    exact hkept.trans hf
  exact (runTurn_retries (s := setDesired .halt s) hwait hroom).trans
    (runStep_next (stepHeld_completes (s := setDesired .halt s) hslot hc) hstep hfault)

end Sys2Proof.Machine

namespace Sys2Proof.Proofs

open Sys2Proof.Machine

/-- Settles O12: the state of a Step that runs to its end, field by field. -/
theorem completedStepOfEveryInstruction : Obligations.CompletedStepOfEveryInstruction :=
  fun i s hc hh =>
    ⟨afterCycle i.control s, exec_completes hc, latched_afterCycle hh s, afterCycle_cycles hh s,
      afterCycle_desired hh s, stepFrame_afterCycle i.control s⟩

/-- Settles O28: each row is a completed Step whose A bus or MAR latch the row selects. -/
theorem operandsAndAddressLatch : Obligations.OperandsAndAddressLatch := by
  refine ⟨fun m s hc hh => ?_, fun m s hc hh => ?_, fun m s hc hh => ?_, fun m s hc hh => ?_⟩
  · obtain ⟨t, hexec, hlatched, -, -, hframe⟩ := completedStepOfEveryInstruction (.amuxReg m) s hc hh
    exact ⟨t, hexec, hframe, hlatched⟩
  · obtain ⟨t, hexec, hlatched, -, -, hframe⟩ := completedStepOfEveryInstruction (.amuxMbr m) s hc hh
    exact ⟨t, hexec, hframe, hlatched⟩
  · obtain ⟨t, hexec, ⟨hmar, -⟩, -, -, hframe⟩ := completedStepOfEveryInstruction (.marLatch m) s hc hh
    exact ⟨t, hexec, hmar, hframe⟩
  · obtain ⟨t, hexec, ⟨hmar, -⟩, -, -, hframe⟩ := completedStepOfEveryInstruction (.marHold m) s hc hh
    exact ⟨t, hexec, hmar, hframe⟩

/-- Settles O29: the latch comes before sub-step 8, so a read cycle 2 overwrites it, a write cycle 1 sees it, and a
write cycle 2 stores the older snapshot. -/
theorem mbrLatchTakesTheOutput : Obligations.MbrLatchTakesTheOutput := by
  refine ⟨fun m s hc hh => ?_, fun m s hc hh => ?_⟩
  · refine ⟨_, exec_completes (i := .mbrLatch m) hc, stepFrame_afterCycle _ s, ?_, ?_, ?_, ?_⟩
    · exact (latched_afterCycle (m := { m with mbr := true }) hh s).mbr_of_noLoad
    · exact fun a => afterCycle_mbr_loaded (m := { m with mbr := true }) hh
    · exact fun hwr hrd => afterCycle_stgB_writeFirst (m := { m with mbr := true }) hrd hwr
    · exact fun a v hwr hrd => afterCycle_cell_writeSecond (m := { m with mbr := true }) hrd hwr
  · refine ⟨_, exec_completes (i := .mbrHold m) hc, stepFrame_afterCycle _ s, ?_, ?_⟩
    · exact (latched_afterCycle (m := { m with mbr := false }) hh s).mbr_of_noLoad
    · exact fun a => afterCycle_mbr_loaded (m := { m with mbr := false }) hh

/-- Settles O30, by the destination: a register that may be written, a constant one under each policy, or none. -/
theorem registerWriteFollowsEncAndC : Obligations.RegisterWriteFollowsEncAndC := by
  refine ⟨fun m s hc hh => ?_, fun m s hconst hp hh hc => ?_, fun m s hconst hp hs hf => ?_, fun m s hc hh => ?_⟩
  · obtain ⟨t, hexec, hlatched, hcycles, -, hframe⟩ := completedStepOfEveryInstruction (.regWrite m) s hc hh
    exact ⟨t, hexec, hframe, hcycles, hlatched.readReg_scratch rfl, hlatched.readReg_constant,
      fun hmbr hload => (hlatched.mbr_of_noLoad hload).trans (if_pos hmbr)⟩
  · have hhold := exec_completes (i := .regHold m) hc
    exact ⟨_, (runWord_constant_discard hconst hp).trans hhold, hhold⟩
  · exact runWord_constant_fault (m := { m with enc := true }) rfl hconst hp hs hf
  · obtain ⟨t, hexec, hlatched, -, -, hframe⟩ := completedStepOfEveryInstruction (.regHold m) s hc hh
    obtain ⟨hkept, -⟩ := latchFrame_of_latched hlatched
    exact ⟨t, hexec, hframe, fun i => hkept i fun henc => by cases henc⟩

/-- Settles O32: without a request sub-step 8 does nothing, and the poll alone touches the bus. -/
theorem requestlessStepLeavesTheBusAlone : Obligations.RequestlessStepLeavesTheBusAlone := by
  intro m s hc
  have hh : MicroInstr.halts { m with rd := false, wr := false } = false := rfl
  refine ⟨_, exec_completes (i := .memNone m) hc, latched_afterCycle hh s, stepFrame_afterCycle _ s,
    afterCycle_cycles hh s, ?_⟩
  have hpoll := pollTakes_afterDatapath { m with rd := false, wr := false } s
  simp only [Instr.control]
  rw [afterCycle_eq hh, afterRequest_none rfl rfl, endOfStep_rxs, endOfStep_rxq, hpoll]
  refine ⟨by simp, by simp, by simp, by simp, by simp, by simp, fun a ha => ?_⟩
  exact (cell_endOfStep (by simpa [hpoll] using ha)).trans (cell_afterDatapath _ s a)

/-- Settles O43: a fault and a Hold change nothing here, and a Step that ends changes what its fields select. -/
theorem frameOfEveryInstruction : Obligations.FrameOfEveryInstruction := by
  intro i s t h
  rw [exec_eq_runWord] at h
  rcases runWord_next_inv h with ⟨f, rfl⟩ | rfl | ⟨-, rfl⟩
  · simp [State.readReg]
  · simp
  · obtain ⟨hparams, hcs, hrun, hwait, -⟩ := stepFrame_afterCycle i.control s
    obtain ⟨hreg, hmar, hmbr⟩ := latchFrame_afterCycle i.control s
    exact ⟨hparams, hcs, hrun, hwait, hreg, hmar, hmbr, fun hreq => afterCycle_stgA_kept hreq s,
      fun hw => afterCycle_txq_txs hw s, afterCycle_rxq_cases i.control s⟩

/-- Settles O42: a held Step is a write cycle 2 onto a full TXQ, and after a pop TXQ has room. -/
theorem heldStepRunsOnceTheHostPops : Obligations.HeldStepRunsOnceTheHostPops := by
  intro s slot hf hslot hs hc hh hcap
  obtain ⟨a, v, hm, ha, hb, hfull⟩ := writeIsHeld_inv hh
  have hheld : stepHeld s = true := stepHeld_held hf hslot hs hc hh
  have hcompletes := cycleCompletes_txPop hs hc hh hcap
  refine ⟨step_held hheld, fun hd hw => (runTurn_runs hw hd).trans (runStep_held hheld),
    fun hw => runTurn_waits hw hfull, hcompletes, ?_⟩
  have hhalts : MicroInstr.halts slot.mi = false := halts_of_writes hm
  have hf' : (txPop s).1.fault = none := by rwa [txPop_state]
  have hslot' : ControlStore.slot (txPop s).1.cs (txPop s).1.mpc = some slot := by rwa [txPop_state]
  refine ⟨_, (step_defined hf' hslot').trans (runWord_completes hcompletes), ?_, ?_, fun hw => ?_⟩
  · rw [afterCycle_cycles hhalts, txPop_state]
  · rw [afterCycle_writeSecond hm (a := a) (v := v) (by rwa [txPop_state]) (by rwa [txPop_state]), endOfStep_stgA]
  · exact runTurn_retry_completes (by rwa [txPop_state]) (txPop_room hfull hcap) hf' hslot' hcompletes hhalts

/-- Settles O7: the decoder's name of the fetched word means the Step of that word. -/
theorem stepRunsTheFetchedInstruction : Obligations.StepRunsTheFetchedInstruction := by
  refine ⟨fun s w bp => step_decoded, fun s w => ?_⟩
  rw [State.withFetchWord, tableWord_toNat]
  exact step_decoded rfl (slot_withControlWord s w)

end Sys2Proof.Proofs

/-! PROOFS. The statements of 41_alu_shifter.md: the function rows of the ALU (R160 to R163), the shifter rows (R167 to
R170), and the flags of the result before the shift (R166). -/

namespace Sys2Proof.Machine

/-! ## The ALU and SH fields of the word (30_encoding.md R106, R107) -/

theorem encode_aluField (i : Instr) : (encode i).extractLsb' 27 2 = i.control.alu.code := by
  have hdecoded : AluFn.ofCode ((encode i).extractLsb' 27 2) = i.control.alu :=
    congrArg MicroInstr.alu (decodeFields_encodeFields i.control)
  rw [← hdecoded, AluFn.code_ofCode]

theorem encode_shiftField (i : Instr) : (encode i).extractLsb' 25 2 = i.control.sh.code := by
  have hdecoded : ShiftFn.ofCode ((encode i).extractLsb' 25 2) = i.control.sh :=
    congrArg MicroInstr.sh (decodeFields_encodeFields i.control)
  rw [← hdecoded, ShiftFn.code_ofCode]

/-! ## The completed Step by its result and output -/

/-- A Step that runs to its end latches whatever its function result and its output are known to be. -/
theorem exec_latches {i : Instr} {s : State} {f out : Word} (hf : cycleResult i.control s = f)
    (hout : shiftOutput i.control.sh f = out) (hc : cycleCompletes i.control s = true)
    (hh : MicroInstr.halts i.control = false) :
    ∃ t, exec i s = .next t ∧ Latched i.control f out s t ∧ StepFrame s t ∧ t.cycles = s.cycles + 1 := by
  subst hf hout
  exact ⟨_, exec_completes hc, latched_afterCycle hh s, stepFrame_afterCycle _ s, afterCycle_cycles hh s⟩

/-! ## The shifter as arithmetic (R168, R169) -/

theorem shiftOutput_right (f : Word) : shiftOutput .right f = BitVec.ofNat 16 (f.toNat / 2) := by
  apply BitVec.eq_of_toNat_eq
  have hhalf : f.toNat / 2 < 2 ^ 16 := lt_of_le_of_lt (Nat.div_le_self _ _) f.isLt
  rw [shiftOutput, BitVec.toNat_ushiftRight, Nat.shiftRight_one, BitVec.toNat_ofNat, Nat.mod_eq_of_lt hhalf]

theorem shiftOutput_left (f : Word) : shiftOutput .left f = BitVec.ofNat 16 (f.toNat * 2) := by
  apply BitVec.eq_of_toNat_eq
  rw [shiftOutput, BitVec.toNat_shiftLeft, Nat.shiftLeft_eq, pow_one, BitVec.toNat_ofNat]

/-! ## The reserved shift (R170) -/

theorem shiftFaults_iff (m : MicroInstr) (s : State) :
    shiftFaults m s = true ↔ m.sh = .reserved ∧ s.params.sh3Policy = .fault :=
  decide_eq_true_iff

/-- The reserved shift under policy fault records ReservedShift and has no other effect. -/
theorem runWord_reservedShift {m : MicroInstr} {s : State} (hsh : m.sh = .reserved)
    (hp : s.params.sh3Policy = .fault) (hf : s.fault = none) :
    runWord m s = .next { s with fault := some .reservedShift } := by
  rw [runWord, microCycle_reservedShift ((shiftFaults_iff m s).mpr ⟨hsh, hp⟩), commit, raise, hf]
  rfl

/-! ## The flags (R166) -/

theorem zeroFlag_iff (f : Word) : zeroFlag f = true ↔ f = 0 :=
  decide_eq_true_iff

/-- Bit 15 is the sign of a word: it is set from 2^15 on. -/
theorem negativeFlag_iff (f : Word) : negativeFlag f = true ↔ 2 ^ 15 ≤ f.toNat := by
  have hsign : negativeFlag f = f.msb := (BitVec.msb_eq_getLsbD_last f).symm
  rw [hsign, BitVec.msb_eq_decide, decide_eq_true_iff]

/-- Sub-step 7 in the words of the flags (42_sequencing.md R180). -/
theorem Latched.mpc_eq_nextMpc {m : MicroInstr} {f out : Word} {s t : State} (h : Latched m f out s t) :
    t.mpc = nextMpc s.mpc m.cond m.addr (negativeFlag f) (zeroFlag f) := by
  obtain ⟨-, -, -, hmpc⟩ := h
  exact hmpc

/-- The next micro-address by COND, with the flags as facts about the result (42_sequencing.md R184 to R187). -/
theorem nextMpc_flags (mpc : MicroAddr) (cond : Cond) (addr : MicroAddr) (f : Word) :
    nextMpc mpc cond addr (negativeFlag f) (zeroFlag f) =
      match cond with
      | .none => mpc + 1
      | .negative => if 2 ^ 15 ≤ f.toNat then addr else mpc + 1
      | .zero => if f = 0 then addr else mpc + 1
      | .jump => addr := by
  cases cond with
  | none => rfl
  | negative => simp only [nextMpc, condTaken, negativeFlag_iff]
  | zero => simp only [nextMpc, condTaken, zeroFlag_iff]
  | jump => rfl

end Sys2Proof.Machine

namespace Sys2Proof.Proofs

open Sys2Proof.Machine

/-- Settles O14: the ALU field selects the sum. -/
theorem aluAddIsSumModulo : Obligations.AluAddIsSumModulo :=
  fun m _ => ⟨encode_aluField (.aluAdd m), exec_latches (i := .aluAdd m) rfl rfl⟩

/-- Settles O15: the ALU field selects the bitwise AND. -/
theorem aluAndIsBitwise : Obligations.AluAndIsBitwise :=
  fun m _ => ⟨encode_aluField (.aluAnd m), exec_latches (i := .aluAnd m) rfl rfl⟩

/-- Settles O16: the ALU field selects the A bus, and the result does not read the B bus. -/
theorem aluPassAIsTheABus : Obligations.AluPassAIsTheABus :=
  fun m _ => ⟨encode_aluField (.aluPassA m), exec_latches (i := .aluPassA m) rfl rfl⟩

/-- Settles O17: the ALU field selects the complement of the A bus. -/
theorem aluInvAIsTheComplement : Obligations.AluInvAIsTheComplement :=
  fun m _ => ⟨encode_aluField (.aluInvA m), exec_latches (i := .aluInvA m) rfl rfl⟩

/-- Settles O18: without a shift the output is the result itself. -/
theorem shiftNoneKeepsTheResult : Obligations.ShiftNoneKeepsTheResult :=
  fun m _ => ⟨encode_shiftField (.shNone m), exec_latches (i := .shNone m) rfl rfl⟩

/-- Settles O19: the output is half the result, and the flags are still those of the result. -/
theorem shiftRightFillsWithZero : Obligations.ShiftRightFillsWithZero :=
  fun m _ => ⟨encode_shiftField (.shRight m), exec_latches (i := .shRight m) rfl (shiftOutput_right _)⟩

/-- Settles O20: the output is twice the result modulo 2^16, and the flags are still those of the result. -/
theorem shiftLeftDropsTheTopBit : Obligations.ShiftLeftDropsTheTopBit :=
  fun m _ => ⟨encode_shiftField (.shLeft m), exec_latches (i := .shLeft m) rfl (shiftOutput_left _)⟩

/-- Settles O21, by the policy: the fault comes before every effect, and without it the shifter passes the result. -/
theorem reservedShiftFollowsItsPolicy : Obligations.ReservedShiftFollowsItsPolicy :=
  fun m _ => ⟨encode_shiftField (.shReserved m), runWord_reservedShift (m := { m with sh := .reserved }) rfl,
    fun _ => exec_latches (i := .shReserved m) rfl rfl⟩

/-- Settles O22: the Step latches MBR and the register from the output, but decides the MPC from the result. -/
theorem flagsAreOfTheResultBeforeTheShift : Obligations.FlagsAreOfTheResultBeforeTheShift := by
  refine ⟨fun f => ⟨zeroFlag_iff f, negativeFlag_iff f⟩, fun m s hc hh => ?_⟩
  obtain ⟨t, hexec, hlatched, -, -⟩ := exec_latches (i := .microinstruction m) rfl rfl hc hh
  exact ⟨t, hexec, hlatched.mpc_eq_nextMpc.trans (nextMpc_flags ..)⟩

end Sys2Proof.Proofs

/-! PROOFS. The statements of 42_sequencing.md: the four rows of COND (R184 to R187) with the fatal error of an Empty
target (60_exceptions.md R260), and the breakpoint check at the advanced MPC (R183). -/

namespace Sys2Proof.Machine

/-! ## The COND field of the word (30_encoding.md R105) -/

theorem encode_condField (i : Instr) : (encode i).extractLsb' 29 2 = i.control.cond.code := by
  have hdecoded : Cond.ofCode ((encode i).extractLsb' 29 2) = i.control.cond :=
    congrArg MicroInstr.cond (decodeFields_encodeFields i.control)
  rw [← hdecoded, Cond.code_ofCode]

/-! ## The Step after a Step (60_exceptions.md R260) -/

/-- A Step keeps the control store and an absent fault record, so one that moves the MPC to an Empty slot is followed by
the fatal error. -/
theorem step_after_emptyTarget {s t : State} {mpc : MicroAddr} (hframe : StepFrame s t) (hmpc : t.mpc = mpc)
    (hf : s.fault = none) (hempty : ControlStore.slot s.cs mpc = none) :
    step t = .next { t with fault := some (.fatal mpc) } := by
  obtain ⟨-, hcs, -, -, hfault⟩ := hframe
  subst hmpc
  exact step_empty (hfault.trans hf) (by rwa [hcs])

/-! ## The breakpoint flag at the MPC (R183) -/

theorem breakpointAt_defined {s : State} {slot : Slot} (h : ControlStore.slot s.cs s.mpc = some slot) :
    breakpointAt s = slot.bp := by
  simp only [breakpointAt, h]

theorem breakpointAt_empty {s : State} (h : ControlStore.slot s.cs s.mpc = none) : breakpointAt s = false := by
  simp only [breakpointAt, h]

/-- The turn of an active loop whose Step runs to its end. -/
theorem runTurn_completes {s : State} {slot : Slot} (hf : s.fault = none) (hwait : s.awaitingSpace = false)
    (hrun : s.desired = .run) (hslot : ControlStore.slot s.cs s.mpc = some slot)
    (hc : cycleCompletes slot.mi s = true) : runTurn s = .running (afterCycle slot.mi s) := by
  have hstep : step { s with awaitingSpace := false } = .next (afterCycle slot.mi s) := by
    rw [awaitingSpace_self hwait, step_defined hf hslot, runWord_completes hc]
  have hfault : (afterCycle slot.mi s).fault = none := by
    obtain ⟨-, -, -, -, hkept⟩ := stepFrame_afterCycle slot.mi s
    exact hkept.trans hf
  exact (runTurn_runs hwait hrun).trans (runStep_next (stepHeld_completes hslot hc) hstep hfault)

/-- A Step that reaches a breakpoint ends the run loop at the next turn. -/
theorem runTurn_after_breakpoint {m : MicroInstr} {s : State} (hh : MicroInstr.halts m = false)
    (hwait : s.awaitingSpace = false) (hbp : breakpointAt (afterCycle m s) = true) :
    runTurn (afterCycle m s) = .halted { afterCycle m s with runState := .halt } := by
  obtain ⟨-, -, -, hkept, -⟩ := stepFrame_afterCycle m s
  exact runTurn_halted (hkept.trans hwait) ((afterCycle_desired hh s).trans (if_pos hbp))

end Sys2Proof.Machine

namespace Sys2Proof.Proofs

open Sys2Proof.Machine

/-- Settles O23: no flag is tested, and the increment of an 8-bit address is modulo 256. -/
theorem condNoneFallsThrough : Obligations.CondNoneFallsThrough := by
  refine fun m s => ⟨encode_condField (.condNone m), fun hc hh => ?_⟩
  obtain ⟨t, hexec, hlatched, hframe, -⟩ := exec_latches (i := .condNone m) rfl rfl hc hh
  have hmpc : t.mpc = s.mpc + 1 := hlatched.mpc_eq_nextMpc
  have hwrap : s.mpc = 255 → t.mpc = 0 := fun hlast => by rw [hmpc, hlast]; rfl
  exact ⟨t, hexec, by rw [hmpc, BitVec.toNat_add]; rfl, hwrap, hframe, step_after_emptyTarget hframe rfl⟩

/-- Settles O24: the flag N is bit 15 of the result that the shifter has not seen. -/
theorem condNBranchesOnNegative : Obligations.CondNBranchesOnNegative := by
  refine fun m s => ⟨encode_condField (.condN m), fun hc hh => ?_⟩
  obtain ⟨t, hexec, hlatched, hframe, -⟩ := exec_latches (i := .condN m) rfl rfl hc hh
  exact ⟨t, hexec, hframe, hlatched.mpc_eq_nextMpc⟩

/-- Settles O25: the flag Z says that the result that the shifter has not seen is 0. -/
theorem condZBranchesOnZero : Obligations.CondZBranchesOnZero := by
  refine fun m s => ⟨encode_condField (.condZ m), fun hc hh => ?_⟩
  obtain ⟨t, hexec, hlatched, hframe, -⟩ := exec_latches (i := .condZ m) rfl rfl hc hh
  exact ⟨t, hexec, hframe, hlatched.mpc_eq_nextMpc.trans (nextMpc_flags ..)⟩

/-- Settles O26: the jump is taken whatever the flags are, and the latches of the Step are those of any other. -/
theorem condJumpTakesTheTarget : Obligations.CondJumpTakesTheTarget := by
  refine fun m s => ⟨encode_condField (.condJump m), fun hc hh => ?_⟩
  obtain ⟨t, hexec, hlatched, hframe, -⟩ := exec_latches (i := .condJump m) rfl rfl hc hh
  have hmpc : t.mpc = m.addr := hlatched.mpc_eq_nextMpc
  exact ⟨t, hexec, hmpc, hlatched, hframe, step_after_emptyTarget hframe hmpc⟩

/-- Settles O27, by the slot at the advanced MPC; the next turn finds Desired = HALT before it fetches that slot. -/
theorem breakpointHaltsAtTheAdvancedMpc : Obligations.BreakpointHaltsAtTheAdvancedMpc := by
  refine ⟨fun i s hc hh => ?_, fun i s t hf hwait hrun hslot hc hh hexec hbp => ?_⟩
  · obtain ⟨t, hexec, -, -, hdesired, -, hcs, -⟩ := completedStepOfEveryInstruction i s hc hh
    rw [← hcs]
    refine ⟨t, hexec, fun slot hslot hbp => ?_, fun slot hslot hbp => ?_, fun hempty => ?_⟩
    · rw [hdesired, breakpointAt_defined hslot, if_pos hbp]
    · rw [hdesired, breakpointAt_defined hslot, hbp]; rfl
    · rw [hdesired, breakpointAt_empty hempty]; rfl
  · obtain ⟨slot, hslot, rfl⟩ := hslot
    rw [control_nameOf] at hc hh
    obtain rfl : afterCycle slot.mi s = t := by
      rw [exec_nameOf, runWord_completes hc] at hexec
      exact Host.Outcome.next.inj hexec
    exact ⟨runTurn_completes hf hwait hrun hslot hc, runTurn_after_breakpoint hh hwait hbp⟩

end Sys2Proof.Proofs

/-! PROOFS. The statements of 43_memory_requests.md: the two cycles of a read and of a write (R201 to R205), sequences that
mix them (R206), the halt of a read with a write (R207), and the receive poll (R210). -/

namespace Sys2Proof.Machine

/-! ## The RD and WR fields of the word (30_encoding.md R102) -/

/-- A two-bit field by its bits. -/
theorem twoBitField_eq_bits : ∀ v : BitVec 2, v = BitVec.ofNat 2 (2 * v[1].toNat + v[0].toNat) := by
  decide

theorem encode_requestField (i : Instr) :
    (encode i).extractLsb' 21 2 = BitVec.ofNat 2 (2 * i.control.rd.toNat + i.control.wr.toNat) := by
  have hrd : (encode i)[22] = i.control.rd := congrArg MicroInstr.rd (decodeFields_encodeFields i.control)
  have hwr : (encode i)[21] = i.control.wr := congrArg MicroInstr.wr (decodeFields_encodeFields i.control)
  rw [twoBitField_eq_bits ((encode i).extractLsb' 21 2), BitVec.getElem_extractLsb', BitVec.getElem_extractLsb']
  exact congrArg₂ (fun rd wr : Bool => BitVec.ofNat 2 (2 * rd.toNat + wr.toNat)) hrd hwr

theorem memRead_oneRequest (m : MicroInstr) : (Instr.memRead m).control.rd ≠ (Instr.memRead m).control.wr := by
  simp [Instr.control]

theorem memWrite_oneRequest (m : MicroInstr) : (Instr.memWrite m).control.rd ≠ (Instr.memWrite m).control.wr := by
  simp [Instr.control]

/-! ## Cycle 1 of a request (R201, R202, R204) -/

/-- The address a request captures is MAR as sub-step 3 of the same Step leaves it. -/
theorem busAddress_afterDatapath (m : MicroInstr) (s : State) :
    (afterDatapath m s).busAddress = (if m.mar then s.readReg m.b else s.mar).extractLsb' 0 12 := by
  rw [State.busAddress, afterDatapath_mar]

/-- With STG_A empty both requests capture the bus address, and a write takes its snapshot of MBR besides. -/
theorem afterRequest_first {m : MicroInstr} {s : State} (hreq : m.rd ≠ m.wr) (ha : s.stgA = none) :
    afterRequest m s = { s with stgA := some s.busAddress, stgB := if m.rd then s.stgB else some s.mbr } := by
  cases hrd : m.rd with
  | true => rw [afterRequest_read hrd, readCycle_first ha]; rfl
  | false =>
    have hwr : m.wr = true := by simpa [hrd] using hreq
    rw [afterRequest_writeFirst hrd hwr ha]
    rfl

/-- The poll does not look at the staging latches. -/
theorem pollTakes_withStaging (s : State) (a : Option Addr) (v : Option Word) :
    pollTakes { s with stgA := a, stgB := v } = pollTakes s := rfl

section
variable {m : MicroInstr} {s : State} (hreq : m.rd ≠ m.wr) (ha : s.stgA = none)
include hreq

theorem halts_of_oneRequest : MicroInstr.halts m = false := by
  cases hrd : m.rd <;> simp_all [MicroInstr.halts]

include ha

theorem afterCycle_first :
    afterCycle m s =
      endOfStep { afterDatapath m s with
        stgA := some (afterDatapath m s).busAddress
        stgB := if m.rd then s.stgB else some (afterDatapath m s).mbr } := by
  rw [afterCycle_eq (halts_of_oneRequest hreq), afterRequest_first hreq (by simpa using ha), afterDatapath_stgB]

/-- A cycle 1 stages its request and leaves the bus to the poll. -/
theorem firstCycle_spec :
    (afterCycle m s).stgA = some ((if m.mar then s.readReg m.b else s.mar).extractLsb' 0 12) ∧
    (afterCycle m s).stgB = (if m.rd then s.stgB else some (if m.mbr then cycleOutput m s else s.mbr)) ∧
    (afterCycle m s).txs = s.txs ∧ (afterCycle m s).txq = s.txq ∧
    (afterCycle m s).rxs = (if pollTakes s then readyVal s.params else s.rxs) ∧
    (∀ a, a ≠ s.params.rxDataAddr ∨ pollTakes s = false → (afterCycle m s).cell a = s.cell a) ∧
    (Memory.wf s.mem = true → Memory.wf (afterCycle m s).mem = true) := by
  rw [afterCycle_first hreq ha, ← busAddress_afterDatapath, ← afterDatapath_mbr, endOfStep_rxs, pollTakes_withStaging,
    pollTakes_afterDatapath]
  refine ⟨by simp, by simp, by simp, by simp, by simp, fun a h => ?_, fun hwf => wf_mem_endOfStep (by simpa using hwf)⟩
  refine (cell_endOfStep ?_).trans (cell_afterDatapath m s a)
  rwa [pollTakes_withStaging, pollTakes_afterDatapath, afterDatapath_params]

theorem firstCycle_mbr : (afterCycle m s).mbr = if m.mbr then cycleOutput m s else s.mbr :=
  (latched_afterCycle (halts_of_oneRequest hreq) s).mbr_of_noLoad (.inr ha)

end

/-! ## Cycle 2 of a request (R201, R203 to R205) -/

theorem readSecond_stgA {m : MicroInstr} {s : State} {a : Addr} (hm : MicroInstr.reads m = true)
    (ha : s.stgA = some a) : (afterCycle m s).stgA = none := by
  rw [afterCycle_readSecond hm ha, endOfStep_stgA]

/-- A write cycle 2 clears STG_A only: the snapshot stays. -/
theorem writeSecond_staging {m : MicroInstr} {s : State} {a : Addr} {v : Word} (hm : MicroInstr.writes m = true)
    (ha : s.stgA = some a) (hb : s.stgB = some v) :
    (afterCycle m s).stgA = none ∧ (afterCycle m s).stgB = some v := by
  simp [afterCycle_writeSecond hm ha hb, hb]

/-- A read cycle 2 at a plain address loads the cell and leaves it. -/
theorem readSecond_plain {m : MicroInstr} {s : State} {a : Addr} (hm : MicroInstr.reads m = true)
    (ha : s.stgA = some a) (hplain : a ∉ s.params.deviceAddrs) :
    (afterCycle m s).mbr = s.cell a ∧ (afterCycle m s).cell a = s.cell a := by
  obtain ⟨hrx, hrs, -, hts⟩ := (not_mem_deviceAddrs_iff _ _).mp hplain
  obtain ⟨hmbr, -⟩ := readSecond_frame hm ha
  refine ⟨hmbr.trans (memReadValue_cell hrs hts), cell_afterCycle (fun hw => ?_) (.inl hrx)⟩
  simp_all [MicroInstr.reads, MicroInstr.writes]

/-- A write cycle 2 without a snapshot records StaleWriteStaging and has no other effect. -/
theorem runWord_stale {m : MicroInstr} {s : State} {a : Addr} (hm : MicroInstr.writes m = true)
    (hs : shiftFaults m s = false) (hc : constantWriteFaults m s = false) (ha : s.stgA = some a) (hb : s.stgB = none)
    (hf : s.fault = none) : runWord m s = .next { s with fault := some .staleWriteStaging } := by
  have hst : writeIsStale m s = true := by simp [writeIsStale, hm, ha, hb]
  rw [runWord, microCycle_stale hs hc hst, commit, raise, hf]
  rfl

/-! ## Two requests in a row (R206, 70_reset_and_hazards.md R301) -/

theorem afterCycle_eq_of_exec {i : Instr} {s t : State} (hc : cycleCompletes i.control s = true)
    (h : exec i s = .next t) : afterCycle i.control s = t :=
  Host.Outcome.next.inj ((exec_completes hc).symm.trans h)

section
variable {i : Instr} {n : MicroInstr} {s t : State} {a : Addr} {v : Word}
variable (hreq : i.control.rd ≠ i.control.wr) (ha : s.stgA = none) (hc : cycleCompletes i.control s = true)
  (h : exec i s = .next t)
include hreq ha hc h

/-- What the Step after a cycle 1 finds: the captured address and the snapshot staged, and the plain cells, the parameters
and the fault record as they were before it. -/
theorem exec_firstCycle :
    t.stgA = some ((if i.control.mar then s.readReg i.control.b else s.mar).extractLsb' 0 12) ∧
    t.stgB = (if i.control.rd then s.stgB else some t.mbr) ∧
    t.params = s.params ∧ t.fault = s.fault ∧
    (∀ a, a ∉ s.params.deviceAddrs → t.cell a = s.cell a) ∧
    (Memory.wf s.mem = true → Memory.wf t.mem = true) := by
  obtain rfl := afterCycle_eq_of_exec hc h
  obtain ⟨hA, hB, -, -, -, hcell, hwf⟩ := firstCycle_spec hreq ha
  obtain ⟨hparams, -, -, -, hfault⟩ := stepFrame_afterCycle i.control s
  rw [firstCycle_mbr hreq ha]
  refine ⟨hA, hB, hparams, hfault, fun a hplain => hcell a (.inl ?_), hwf⟩
  exact ((not_mem_deviceAddrs_iff _ _).mp hplain).1

/-- A read after a cycle 1 of either request loads the captured cell as it was before both Steps. -/
theorem exec_read_after_first (hcn : cycleCompletes { n with rd := true, wr := false } t = true)
    (haddr : (if i.control.mar then s.readReg i.control.b else s.mar).extractLsb' 0 12 = a)
    (hplain : a ∉ s.params.deviceAddrs) :
    ∃ u, exec (.memRead n) t = .next u ∧ u.mbr = s.cell a ∧ u.cell a = s.cell a ∧ u.stgA = none := by
  obtain ⟨hA, -, hparams, -, hcell, -⟩ := exec_firstCycle hreq ha hc h
  rw [haddr] at hA
  have hm : MicroInstr.reads { n with rd := true, wr := false } = true := rfl
  obtain ⟨hmbr, hkept⟩ := readSecond_plain hm hA (by rwa [hparams])
  exact ⟨_, exec_completes (i := .memRead n) hcn, hmbr.trans (hcell a hplain), hkept.trans (hcell a hplain),
    readSecond_stgA hm hA⟩

/-- A write after a cycle 1 of either request stores the snapshot that stands at the captured address. -/
theorem exec_write_after_first (hwf : Memory.wf s.mem = true)
    (hcn : cycleCompletes { n with rd := false, wr := true } t = true)
    (haddr : (if i.control.mar then s.readReg i.control.b else s.mar).extractLsb' 0 12 = a)
    (hplain : a ∉ s.params.deviceAddrs) (hb : t.stgB = some v) :
    ∃ u, exec (.memWrite n) t = .next u ∧ u.cell a = v ∧ u.stgA = none := by
  obtain ⟨hA, -, hparams, -, -, hcanonical⟩ := exec_firstCycle hreq ha hc h
  rw [haddr] at hA
  obtain ⟨hstaging, -⟩ := writeSecond_staging (m := { n with rd := false, wr := true }) rfl hA hb
  exact ⟨_, exec_completes (i := .memWrite n) hcn,
    afterCycle_cell_writeSecond rfl rfl hA hb (by rwa [hparams]) (hcanonical hwf), hstaging⟩

end

/-! ## The halt (R207) -/

theorem afterCycle_halts {m : MicroInstr} (hh : MicroInstr.halts m = true) (s : State) :
    afterCycle m s = rdWrHalt s (afterDatapath m s) := by
  rw [afterCycle, if_pos hh]

/-- Sub-steps 2 to 7 stand in every state with the same datapath. -/
theorem Latched.of_datapath_eq {m : MicroInstr} {f out : Word} {s t u : State} (h : Latched m f out s t)
    (hmar : u.mar = t.mar) (hmbr : u.mbr = t.mbr) (hregs : u.regs = t.regs) (hmpc : u.mpc = t.mpc) :
    Latched m f out s u := by
  simpa only [Latched, hmar, hmbr, hmpc, readReg_congr hregs] using h

section
variable {m : MicroInstr} {s : State} (hh : MicroInstr.halts m = true)
include hh

/-- Under `afterSequencing` the datapath of the Step stands, and the end of the Step does not run. -/
theorem afterCycle_afterSequencing (h : s.params.rdwrHaltPoint = .afterSequencing) :
    afterCycle m s = setDesired .halt (afterDatapath m s) :=
  (afterCycle_halts hh s).trans (rdWrHalt_afterSequencing (by simpa using h) s)

theorem afterCycle_discardAll (h : s.params.rdwrHaltPoint = .discardAll) :
    afterCycle m s = setDesired .halt s :=
  (afterCycle_halts hh s).trans (rdWrHalt_discardAll (by simpa using h) s)

/-- Under `complete` the end of the Step runs after the halt. -/
theorem afterCycle_complete (h : s.params.rdwrHaltPoint = .complete) :
    afterCycle m s = endOfStep (setDesired .halt (afterDatapath m s)) :=
  (afterCycle_halts hh s).trans (rdWrHalt_complete (by simpa using h) s)

theorem complete_spec (h : s.params.rdwrHaltPoint = .complete) :
    Latched m (cycleResult m s) (cycleOutput m s) s (afterCycle m s) ∧
    (afterCycle m s).cycles = s.cycles + 1 ∧
    (afterCycle m s).rxs = (if pollTakes s then readyVal s.params else s.rxs) ∧
    (afterCycle m s).rxq = (if pollTakes s then s.rxq.tail else s.rxq) ∧
    ∀ a, a ≠ s.params.rxDataAddr ∨ pollTakes s = false → (afterCycle m s).cell a = s.cell a := by
  have hpoll : pollTakes (setDesired .halt (afterDatapath m s)) = pollTakes s := pollTakes_afterDatapath m s
  rw [afterCycle_complete hh h, endOfStep_rxs, endOfStep_rxq, hpoll]
  refine ⟨(latched_afterDatapath m s).of_datapath_eq (by simp) (by simp) (by simp) (by simp), by simp, by simp, by simp,
    fun a ha => ?_⟩
  exact (cell_endOfStep (by simpa [hpoll] using ha)).trans (cell_afterDatapath m s a)

end

/-! ## The poll (R210) -/

/-- A receiver that is disabled or ready, or an empty RXQ, leaves the poll without a byte. -/
theorem pollTakes_eq_false_iff (s : State) :
    pollTakes s = false ↔
      s.rxs.getLsbD s.params.enableBit.val = false ∨ s.rxs.getLsbD s.params.readyBit.val = true ∨ s.rxq = [] := by
  simp [pollTakes, State.rxEnabled, State.rxReady, imp_iff_not_or, or_assoc]

end Sys2Proof.Machine

namespace Sys2Proof.Proofs

open Sys2Proof.Machine

/-- Settles O33: cycle 1 stages the address that sub-step 3 leaves, cycle 2 reads at the staged one. -/
theorem readRequestTakesTwoCycles : Obligations.ReadRequestTakesTwoCycles := by
  intro m s hc
  have hreads : MicroInstr.reads (Instr.memRead m).control = true := rfl
  have hframe := stepFrame_afterCycle (Instr.memRead m).control s
  refine ⟨encode_requestField (.memRead m), fun ha => ?_, fun a ha => ?_⟩
  · obtain ⟨hA, hB, htxs, htxq, hrxs, hcell, -⟩ := firstCycle_spec (memRead_oneRequest m) ha
    exact ⟨_, exec_completes hc, hA, hB, firstCycle_mbr (memRead_oneRequest m) ha, hframe, htxs, htxq, hrxs, hcell⟩
  · obtain ⟨hmbr, htxs, htxq⟩ := readSecond_frame hreads ha
    obtain ⟨hB, -⟩ := afterCycle_txq_txs (m := (Instr.memRead m).control) rfl s
    exact ⟨_, exec_completes hc, hmbr, readSecond_stgA hreads ha, hB, hframe, htxs, htxq⟩

/-- Settles O35, by the staging: cycle 1 without an address, and the store, the fault or the Hold with one. -/
theorem writeRequestTakesTwoCycles : Obligations.WriteRequestTakesTwoCycles := by
  intro m s
  have hwrites : MicroInstr.writes (Instr.memWrite m).control = true := rfl
  have hframe := stepFrame_afterCycle (Instr.memWrite m).control s
  refine ⟨encode_requestField (.memWrite m), fun hc ha => ?_, fun a v hc ha hb => ?_,
    fun hs hcw hf ha hb => ?_, fun a hs hcw ha hb hfull => ?_⟩
  · obtain ⟨hA, hB, htxs, htxq, -, hcell, -⟩ := firstCycle_spec (memWrite_oneRequest m) ha
    exact ⟨_, exec_completes hc, hA, hB, hframe, htxs, htxq, hcell⟩
  · obtain ⟨hA, hB⟩ := writeSecond_staging hwrites ha hb
    exact ⟨_, exec_completes hc, hA, hB, hframe, afterCycle_cell_writeSecond rfl rfl ha hb,
      fun b hba hrx => writeSecond_cell_other hwrites ha hb hba (.inl hrx)⟩
  · obtain ⟨a, ha⟩ := Option.ne_none_iff_exists'.mp ha
    exact runWord_stale hwrites hs hcw ha hb hf
  · obtain ⟨v, hb⟩ := Option.ne_none_iff_exists'.mp hb
    refine runWord_held (m := (Instr.memWrite m).control) hs hcw ?_
    simp [writeIsHeld, ha, hb, hwrites, hfull]

/-- Settles O37, by the policy; the datapath of the Step stands before the halt, and the poll runs after it. -/
theorem readWithWriteHalts : Obligations.ReadWithWriteHalts := by
  intro m s hc
  have hh : MicroInstr.halts (Instr.memRdWrHalt m).control = true := rfl
  have hdesired : (afterCycle (Instr.memRdWrHalt m).control s).desired = .halt := by
    rw [afterCycle_halts hh, rdWrHalt_desired]
  obtain ⟨hparams, hcs, hrun, hwait, hfault⟩ := stepFrame_afterCycle (Instr.memRdWrHalt m).control s
  obtain ⟨hB, htxs, htxq⟩ := afterCycle_txq_txs (m := (Instr.memRdWrHalt m).control) rfl s
  refine ⟨encode_requestField (.memRdWrHalt m), _, exec_completes hc, hdesired,
    ⟨hparams, hcs, hrun, hwait, hfault⟩, afterCycle_stgA_kept rfl s, hB, htxs, htxq,
    fun hw => runTurn_halted (hwait.trans hw) hdesired, fun hp => ?_, afterCycle_discardAll hh, complete_spec hh⟩
  rw [afterCycle_afterSequencing hh hp]
  exact ⟨latched_afterDatapath _ s, by simp⟩

/-- Settles O38: the poll by its condition, and the NOP that ends with it. -/
theorem receivePollTakesOneByte : Obligations.ReceivePollTakesOneByte := by
  refine ⟨fun s byte rest he hr hq hwf => ?_, fun s h => receivePoll_idle ((pollTakes_eq_false_iff s).mpr h)⟩
  have htakes : pollTakes s = true := by rw [pollTakes_of_waiting he hr, hq]; rfl
  have hnop : pollTakes { s with mpc := s.mpc + 1 } = true := htakes
  have hpoll := receivePoll_takes htakes hq
  refine ⟨by rw [hpoll], by rw [hpoll], ?_, by rw [hpoll], fun b hb => cell_receivePoll (.inl hb), _, exec_nop s, ?_, ?_,
    cell_endOfStep_taken hnop hq hwf⟩
  · rw [hpoll]
    exact Memory.read_write_same hwf _ _
  · rw [endOfStep_rxq, hnop, if_pos rfl, hq, List.tail_cons]
  · rw [endOfStep_rxs, hnop, if_pos rfl]

/-- Settles O39: a read after a read cycle 1. -/
theorem twoReadStepsLoadTheWord : Obligations.TwoReadStepsLoadTheWord := by
  intro m n s t ha hc h hcn a hplain
  obtain ⟨u, hexec, hmbr, -, hA⟩ := exec_read_after_first (memRead_oneRequest m) ha hc h hcn rfl hplain
  exact ⟨u, hexec, hmbr, hA⟩

/-- Settles O40: a write after a write cycle 1, whose snapshot is the MBR it left. -/
theorem twoWriteStepsStoreTheSnapshot : Obligations.TwoWriteStepsStoreTheSnapshot := by
  intro m n s t ha hwf hc h hcn a hplain
  obtain ⟨-, hB, -⟩ := exec_firstCycle (memWrite_oneRequest m) ha hc h
  exact exec_write_after_first (memWrite_oneRequest m) ha hc h hwf hcn rfl hplain hB

/-- Settles O41: each second Step takes the address of the first; a read cycle 1 leaves the snapshot, or its absence. -/
theorem mixedRequestsShareTheStaging : Obligations.MixedRequestsShareTheStaging := by
  refine ⟨?_, ?_, ?_⟩
  · intro m n s t ha hc h hcn a hplain
    exact exec_read_after_first (memWrite_oneRequest m) ha hc h hcn rfl hplain
  · intro m n s t v ha hb hwf hc h hcn a hplain
    obtain ⟨-, hB, -⟩ := exec_firstCycle (memRead_oneRequest m) ha hc h
    exact exec_write_after_first (memRead_oneRequest m) ha hc h hwf hcn rfl hplain (hB.trans hb)
  · intro m n s t ha hb hf hc h hs hcw
    obtain ⟨hA, hB, -, hfault, -⟩ := exec_firstCycle (memRead_oneRequest m) ha hc h
    exact runWord_stale (m := (Instr.memWrite n).control) rfl hs hcw hA (hB.trans hb) (hfault.trans hf)

end Sys2Proof.Proofs

/-! PROOFS. The statements of 44_host_interface.md: loading and zeroing (R230 to R233), breakpoints and the requested
run state (R235, R237), the turns of the run loop (R236, R238), the queues (R241) and the snapshot (R240). -/

namespace Sys2Proof.Machine

/-! ## Loading (R230, R231) -/

theorem loadControlStore_tooLong {ws : List ControlWord} (h : 256 < ws.length) (s : State) :
    loadControlStore ws s = (s, .loadError 256 ws.length) :=
  if_pos h

theorem loadControlStore_fits {ws : List ControlWord} (h : ws.length ≤ 256) (s : State) :
    loadControlStore ws s = ({ s with cs := installWords 0 ws s.cs }, .done) :=
  if_neg (Nat.not_lt.mpr h)

theorem loadMemory_tooLong {ws : List Word} (h : 4096 < ws.length) (s : State) :
    loadMemory ws s = (s, .loadError 4096 ws.length) :=
  if_pos h

theorem loadMemory_fits {ws : List Word} (h : ws.length ≤ 4096) (s : State) :
    loadMemory ws s = ({ s with mem := installCells 0 ws s.mem }, .done) :=
  if_neg (Nat.not_lt.mpr h)

theorem ControlStore.slot_installWords_loaded {ws : List ControlWord} {m : MicroAddr} {w : ControlWord}
    (h : ws[m.toNat]? = some w) (cs : ControlStore) :
    ControlStore.slot (installWords 0 ws cs) m = some (freshSlot w) := by
  obtain ⟨hlt, rfl⟩ := List.getElem?_eq_some_iff.mp h
  rw [ControlStore.slot, lookup_installWords, dif_pos (by omega)]
  rfl

theorem ControlStore.slot_installWords_beyond {ws : List ControlWord} {m : MicroAddr} (h : ws.length ≤ m.toNat)
    (cs : ControlStore) : ControlStore.slot (installWords 0 ws cs) m = ControlStore.slot cs m := by
  rw [ControlStore.slot, lookup_installWords, dif_neg (by omega)]
  rfl

section
variable {ws : List Word} {mem : Memory} {a : Addr} (hmem : Memory.wf mem = true) (hfit : ws.length ≤ 4096)
include hmem hfit

theorem Memory.read_installCells_loaded {w : Word} (h : ws[a.toNat]? = some w) :
    Memory.read (installCells 0 ws mem) a = w := by
  obtain ⟨hlt, rfl⟩ := List.getElem?_eq_some_iff.mp h
  rw [Memory.read, lookup_installCells hmem (by omega), dif_pos (by omega)]
  rfl

theorem Memory.read_installCells_beyond (h : ws.length ≤ a.toNat) :
    Memory.read (installCells 0 ws mem) a = Memory.read mem a := by
  rw [Memory.read, lookup_installCells hmem (by omega), dif_neg (by omega)]
  rfl

end

/-! ## Breakpoints (R237) -/

theorem toggleBreakpoint_defined {s : State} {m : MicroAddr} {slot : Slot}
    (h : ControlStore.slot s.cs m = some slot) :
    toggleBreakpoint m s = { s with cs := ControlStore.define s.cs m { slot with bp := !slot.bp } } := by
  simp only [toggleBreakpoint, h]

theorem toggleBreakpoint_empty {s : State} {m : MicroAddr} (h : ControlStore.slot s.cs m = none) :
    toggleBreakpoint m s = s := by
  simp only [toggleBreakpoint, h]

theorem slot_toggleBreakpoint_same {s : State} {m : MicroAddr} {slot : Slot}
    (h : ControlStore.slot s.cs m = some slot) :
    ControlStore.slot (toggleBreakpoint m s).cs m = some { slot with bp := !slot.bp } := by
  rw [toggleBreakpoint_defined h, ControlStore.slot_define_same]

theorem slot_toggleBreakpoint_other {m n : MicroAddr} (h : n ≠ m) (s : State) :
    ControlStore.slot (toggleBreakpoint m s).cs n = ControlStore.slot s.cs n := by
  cases hslot : ControlStore.slot s.cs m with
  | none => rw [toggleBreakpoint_empty hslot]
  | some slot => rw [toggleBreakpoint_defined hslot, ControlStore.slot_define_other h]

theorem toggleBreakpoint_frame (m : MicroAddr) (s : State) : { toggleBreakpoint m s with cs := s.cs } = s := by
  cases hslot : ControlStore.slot s.cs m with
  | none => rw [toggleBreakpoint_empty hslot]
  | some slot => rw [toggleBreakpoint_defined hslot]

/-! ## A turn that aborts (R236, R238) -/

/-- A Step that answers a recorded fault was not held: a held Step answers its own state, and none is held with a fault
recorded. -/
theorem stepHeld_of_raised {s t : State} {f : Fault} (hstep : step s = .next t) (hf : t.fault = some f) :
    stepHeld s = false := by
  cases hheld : stepHeld s with
  | false => rfl
  | true =>
    cases (step_held hheld).symm.trans hstep
    exact hheld.symm.trans (stepHeld_recorded hf)

section
variable {s : State} (hwait : s.awaitingSpace = false) (hrun : s.desired = .run)
include hwait hrun

theorem runTurn_continues {t : State} (hheld : stepHeld s = false) (hstep : step s = .next t) (hf : t.fault = none) :
    runTurn s = .running t :=
  (runTurn_runs hwait hrun).trans (runStep_next hheld (by rwa [awaitingSpace_self hwait]) hf)

theorem runTurn_raised {t : State} {f : Fault} (hstep : step s = .next t) (hf : t.fault = some f) :
    runTurn s = .aborted f { t with runState := .halt } :=
  (runTurn_runs hwait hrun).trans
    (runStep_raised (stepHeld_of_raised hstep hf) (by rwa [awaitingSpace_self hwait]) hf)

theorem runTurn_recorded {f : Fault} (hf : s.fault = some f) :
    runTurn s = .aborted f { s with runState := .halt } := by
  rw [runTurn_runs hwait hrun, runStep_fault (stepHeld_recorded hf) (step_recorded hf), hwait]

end

/-! ## The snapshot (R240) -/

/-- A table of `N` entries by index shows the entry of each bit vector below `N` at its place. -/
theorem getElem?_map_range_ofNat {α : Type} {n N : Nat} (f : BitVec n → α) (i : BitVec n) (h : i.toNat < N) :
    ((List.range N).map fun k => f (BitVec.ofNat n k))[i.toNat]? = some (f i) := by
  rw [List.getElem?_map, List.getElem?_range h, Option.map_some, BitVec.ofNat_toNat, BitVec.setWidth_eq]

theorem snapshot_memory_length (s : State) : (snapshot s).memory.length = 4096 := by
  rw [snapshot, List.length_map, List.length_range]

theorem snapshot_slots_length (s : State) : (snapshot s).slots.length = 256 := by
  rw [snapshot, List.length_map, List.length_range]

theorem snapshot_memory_get (s : State) (a : Addr) : (snapshot s).memory[a.toNat]? = some (s.cell a) := by
  rw [snapshot, getElem?_map_range_ofNat s.cell a a.isLt]

theorem snapshot_slots_get (s : State) (m : MicroAddr) :
    (snapshot s).slots[m.toNat]? = some (ControlStore.slot s.cs m) := by
  rw [snapshot, getElem?_map_range_ofNat (ControlStore.slot s.cs) m m.isLt]

end Sys2Proof.Machine

namespace Sys2Proof.Proofs

open Sys2Proof.Machine

/-- Settles O50, by the length: too many words are refused, and a load that fits is read back slot by slot. -/
theorem loadControlStoreInstallsDecodedWords : Obligations.LoadControlStoreInstallsDecodedWords := by
  refine fun ws s => ⟨fun hlong => loadControlStore_tooLong hlong s, fun hfit => ?_⟩
  rw [loadControlStore_fits hfit]
  exact ⟨rfl, fun m w hw => ControlStore.slot_installWords_loaded hw s.cs,
    fun m hm => ControlStore.slot_installWords_beyond hm s.cs, rfl⟩

/-- Settles O51, by the length; the canonical form is what lets a word 0 remove the entry of its cell. -/
theorem loadMemoryInstallsPlainCells : Obligations.LoadMemoryInstallsPlainCells := by
  refine fun ws s => ⟨fun hlong => loadMemory_tooLong hlong s, fun hfit hwf => ?_⟩
  rw [loadMemory_fits hfit]
  exact ⟨rfl, fun a w hw => Memory.read_installCells_loaded hwf hfit hw,
    fun a ha => Memory.read_installCells_beyond hwf hfit ha, rfl⟩

/-- Settles O53: the flag flipped twice is the flag from before. -/
theorem toggleFlipsOneFlag : Obligations.ToggleFlipsOneFlag := by
  refine ⟨fun s m => ⟨fun slot hslot => ?_, fun n hn => slot_toggleBreakpoint_other hn s, toggleBreakpoint_empty,
    toggleBreakpoint_frame m s⟩, fun s v => ⟨rfl, rfl⟩⟩
  have hflipped := slot_toggleBreakpoint_same hslot
  refine ⟨hflipped, ?_⟩
  rw [slot_toggleBreakpoint_same hflipped, Bool.not_not]

/-- Settles O54, by the wait, by Desired and by what the Step answers. -/
theorem runLoopTurns : Obligations.RunLoopTurns := by
  refine ⟨fun s => rfl, fun s => runTurn_halted, fun s hwait hrun => ⟨fun hheld => ?_, fun t => ?_, fun t f => ?_,
    fun f => ?_⟩, fun s hwait => ⟨runTurn_waits hwait, fun t hroom hheld hstep hf => ?_⟩⟩
  · exact (runTurn_runs hwait hrun).trans (runStep_held hheld)
  · exact runTurn_continues hwait hrun
  · exact runTurn_raised hwait hrun
  · exact runTurn_recorded hwait hrun
  · exact (runTurn_retries hwait hroom).trans (runStep_next hheld hstep hf)

/-- Settles O52: an unlisted cell is 0 and an unlisted slot Empty, so the fetch at the MPC finds none. -/
theorem zeroingByTheHost : Obligations.ZeroingByTheHost :=
  ⟨fun _ => ⟨fun _ => rfl, rfl⟩,
    fun s => ⟨fun _ => rfl, rfl, fun hf => step_empty (s := zeroControlStore s) hf rfl⟩⟩

/-- Settles O55, by the room in RXQ and the head of TXQ; the snapshot by its tables. -/
theorem serialQueuesAreFirstInFirstOut : Obligations.SerialQueuesAreFirstInFirstOut := by
  refine ⟨fun s b hroom => if_pos hroom, fun s b hfull => if_neg (Nat.not_lt.mpr hfull), fun s b rest hq => ?_,
    fun s hq => ?_, fun s => ⟨rfl, rfl, rfl, rfl, rfl, rfl, rfl, snapshot_memory_length s, snapshot_memory_get s,
      snapshot_slots_length s, snapshot_slots_get s⟩⟩
  · simp only [txPop, hq]
  · simp only [txPop, hq]

end Sys2Proof.Proofs

/-! PROOFS. The statements of 60_exceptions.md: the fatal error of an Empty slot (R260), the three model faults and the
Hold in the order of the sub-steps (R265, R266), and the Steps that the cycle counter counts (R271). -/

namespace Sys2Proof.Machine

/-! ## The causes of a fault and of a Hold (R265, 20_memory.md R71) -/

theorem constantWriteFaults_iff (m : MicroInstr) (s : State) :
    constantWriteFaults m s = true ↔
      m.enc = true ∧ m.c ∈ s.params.regIndex.constants ∧ s.params.constWritePolicy = .fault := by
  simp [constantWriteFaults, isConstantReg_iff, and_assoc]

theorem MicroInstr.writes_iff (m : MicroInstr) : MicroInstr.writes m = true ↔ m.rd = false ∧ m.wr = true := by
  simp [MicroInstr.writes]

theorem writeIsStale_iff (m : MicroInstr) (s : State) :
    writeIsStale m s = true ↔ (m.rd = false ∧ m.wr = true ∧ s.stgA.isSome = true) ∧ s.stgB = none := by
  simp [writeIsStale, MicroInstr.writes_iff, and_assoc]

theorem transmitBlocked_iff (s : State) (a : Addr) :
    s.transmitBlocked a = true ↔
      a ≠ s.params.rxStatusAddr ∧ a ≠ s.params.txStatusAddr ∧ a = s.params.txDataAddr ∧
      s.txs.getLsbD s.params.enableBit.val = true ∧ s.txq.length = s.params.txqCap := by
  simp [State.transmitBlocked, State.txEnabled, and_assoc]

theorem writeIsHeld_iff (m : MicroInstr) (s : State) :
    writeIsHeld m s = true ↔
      (m.rd = false ∧ m.wr = true) ∧ s.stgB ≠ none ∧ ∃ a, s.stgA = some a ∧ s.transmitBlocked a = true := by
  unfold writeIsHeld
  split
  next a v ha hb => simp [ha, hb, MicroInstr.writes_iff]
  next hlatches =>
    refine iff_of_false Bool.false_ne_true fun ⟨_, hb, a, ha, _⟩ => ?_
    obtain ⟨v, hb⟩ := Option.ne_none_iff_exists'.mp hb
    exact hlatches a v ha hb

theorem cycleCompletes_iff (m : MicroInstr) (s : State) :
    cycleCompletes m s = true ↔
      shiftFaults m s = false ∧ constantWriteFaults m s = false ∧ writeIsStale m s = false ∧ writeIsHeld m s = false := by
  simp [cycleCompletes, and_assoc]

/-! ## The cycle counter (R271) -/

/-- A read with a write is counted only where the end of the Step runs after its halt (43_memory_requests.md R207). -/
theorem afterCycle_cycles_halts {m : MicroInstr} (hh : MicroInstr.halts m = true) (s : State) :
    (afterCycle m s).cycles = s.cycles + if s.params.rdwrHaltPoint = .complete then 1 else 0 := by
  cases h : s.params.rdwrHaltPoint with
  | afterSequencing => simp [afterCycle_afterSequencing hh h]
  | discardAll => simp [afterCycle_discardAll hh h]
  | complete => simp [afterCycle_complete hh h]

theorem afterCycle_cycles_counted (m : MicroInstr) (s : State) :
    (afterCycle m s).cycles =
      s.cycles + if MicroInstr.halts m = false ∨ s.params.rdwrHaltPoint = .complete then 1 else 0 := by
  cases hh : MicroInstr.halts m with
  | false => simp [afterCycle_cycles hh]
  | true => simp [afterCycle_cycles_halts hh]

/-- A Step that faults or is held is not counted. -/
theorem runWord_cycles {m : MicroInstr} {s t : State} (h : runWord m s = .next t) :
    t.cycles = if cycleCompletes m s = true then (afterCycle m s).cycles else s.cycles := by
  rcases runWord_next m s with ⟨hc, he⟩ | ⟨hc, f, he⟩ | ⟨hc, he⟩ <;> cases he.symm.trans h <;> simp [hc]

end Sys2Proof.Machine

namespace Sys2Proof.Proofs

open Sys2Proof.Machine

/-- Settles O10: the causes are tested in the order of the sub-steps, and without one the Step runs to its end. -/
theorem modelFaultsInSubStepOrder : Obligations.ModelFaultsInSubStepOrder := by
  refine ⟨rfl, rfl, rfl, fun i s hf => ?_⟩
  simp only [exec_eq_runWord, ← shiftFaults_iff, ← constantWriteFaults_iff, Bool.not_eq_true]
  refine ⟨fun hs => ?_, fun hs hc => ?_, fun hs hc ⟨hrd, hwr, hA⟩ hb => ?_, fun hs hc ⟨hrd, hwr, hA⟩ hb hfull => ?_,
    fun hs hc hfree => ?_⟩
  · obtain ⟨hsh, hp⟩ := (shiftFaults_iff _ s).mp hs
    exact runWord_reservedShift hsh hp hf
  · obtain ⟨henc, hconst, hp⟩ := (constantWriteFaults_iff _ s).mp hc
    exact runWord_constant_fault henc hconst hp hs hf
  · obtain ⟨a, ha⟩ := Option.isSome_iff_exists.mp hA
    exact runWord_stale ((MicroInstr.writes_iff _).mpr ⟨hrd, hwr⟩) hs hc ha hb hf
  · obtain ⟨a, ha, hblocked⟩ := hfull
    exact runWord_held hs hc ((writeIsHeld_iff _ s).mpr ⟨⟨hrd, hwr⟩, hb, a, ha, (transmitBlocked_iff s a).mpr hblocked⟩)
  · have hstale : writeIsStale i.control s = false := by
      rw [← Bool.not_eq_true, writeIsStale_iff]
      exact fun ⟨hwrite, hb⟩ => hfree ⟨hwrite, .inl hb⟩
    have hheld : writeIsHeld i.control s = false := by
      rw [← Bool.not_eq_true, writeIsHeld_iff]
      exact fun ⟨⟨hrd, hwr⟩, _, a, ha, hblocked⟩ =>
        hfree ⟨⟨hrd, hwr, Option.isSome_of_eq_some ha⟩, .inr ⟨a, ha, (transmitBlocked_iff s a).mp hblocked⟩⟩
    have hcompletes : cycleCompletes i.control s = true := (cycleCompletes_iff _ s).mpr ⟨hs, hc, hstale, hheld⟩
    obtain ⟨-, -, -, -, hkept⟩ := stepFrame_afterCycle i.control s
    exact ⟨hcompletes, _, runWord_completes hcompletes, hkept.trans hf⟩

/-- Settles O13, by whether the Step runs to its end; a read with a write is counted by its policy. -/
theorem cyclesCountCompletedSteps : Obligations.CyclesCountCompletedSteps := by
  intro i s t h
  rw [exec_eq_runWord] at h
  rw [runWord_cycles h, afterCycle_cycles_counted]
  cases cycleCompletes i.control s <;> simp

/-- Settles O8: the fetch records the fault, and the turn's Step answers it. -/
theorem fetchOfAnEmptySlotIsFatal : Obligations.FetchOfAnEmptySlotIsFatal :=
  fun _ hf hslot =>
    ⟨step_empty hf hslot, rfl, fun hrun hwait => runTurn_raised hwait hrun (step_empty hf hslot) rfl⟩

end Sys2Proof.Proofs

/-! PROOFS. The statements of 70_reset_and_hazards.md: what Reset sets (R290, R292), what it leaves alone (R293, R296),
that it alone clears the fault record (R294), and the state at creation (R297). -/

namespace Sys2Proof.Machine

/-! ## The value Reset gives a register (R290, R292) -/

section
variable {p : Params}

theorem resetUnlistedValue_of_zero (h : p.resetUnlisted = .zero) (old : Word) : resetUnlistedValue p old = 0 := by
  simp only [resetUnlistedValue, h]

theorem resetUnlistedValue_of_preserve (h : p.resetUnlisted = .preserve) (old : Word) :
    resetUnlistedValue p old = old := by
  simp only [resetUnlistedValue, h]

theorem resetUnlistedValue_zero (p : Params) : resetUnlistedValue p 0 = 0 :=
  (resetUnlistedValue_cases p 0).elim id id

theorem resetUnlistedValue_idem (p : Params) (old : Word) :
    resetUnlistedValue p (resetUnlistedValue p old) = resetUnlistedValue p old := by
  unfold resetUnlistedValue
  split <;> rfl

theorem resetRegister_idem (p : Params) (i : RegIx) (old : Word) :
    resetRegister p i (resetRegister p i old) = resetRegister p i old := by
  cases hpolicy : p.resetUnlisted with
  | zero => simp only [resetRegister, hpolicy]
  | preserve =>
    simp only [resetRegister, hpolicy]
    split_ifs <;> rfl

theorem resetRegister_pc (p : Params) (old : Word) : resetRegister p p.regIndex.pc old = 0 := by
  simp [resetRegister]

theorem resetRegister_sp (h : p.wf = true) (old : Word) : resetRegister p p.regIndex.sp old = p.spReset := by
  obtain ⟨hroles, -⟩ := (params_wf_iff p).mp h
  have hpc : p.regIndex.sp ≠ p.regIndex.pc := by
    rintro heq
    simp [RegIndex.roles, heq] at hroles
  simp [resetRegister, hpc]

/-- AC, IR and TIR share no index with a role of the reset list, and are reset as the other unlisted state is (D14). -/
theorem resetRegister_unlisted (h : p.wf = true) {i : RegIx}
    (hi : i = p.regIndex.ac ∨ i = p.regIndex.ir ∨ i = p.regIndex.tir) (old : Word) :
    resetRegister p i old = resetUnlistedValue p old := by
  obtain ⟨hroles, -⟩ := (params_wf_iff p).mp h
  have hlisted : i ∉ p.regIndex.pc :: p.regIndex.sp :: p.regIndex.constants := by
    simp only [RegIndex.roles, RegIndex.constants, List.nodup_cons, List.mem_cons, List.not_mem_nil, or_false,
      not_or] at hroles ⊢
    grind
  simp only [RegIndex.constants, List.mem_cons, List.not_mem_nil, or_false, not_or] at hlisted
  simp only [resetRegister, hlisted, hi, if_true, if_false]
  rfl

/-- An index no role has is a scratch register. -/
theorem resetRegister_scratch {i : RegIx} (h : i ∉ p.regIndex.roles) (old : Word) : resetRegister p i old = 0 := by
  simp only [RegIndex.roles, List.mem_cons, List.not_mem_nil, or_false, not_or] at h
  simp [resetRegister, h]

end

theorem resetEngine_readReg_unlisted {s : State} (h : s.params.wf = true) {i : RegIx}
    (hi : i = s.params.regIndex.ac ∨ i = s.params.regIndex.ir ∨ i = s.params.regIndex.tir) :
    (resetEngine s).readReg i = resetUnlistedValue s.params (s.readReg i) := by
  rw [resetEngine_readReg, resetRegister_unlisted h hi]

/-! ## Reset and the state at creation (R296, R297) -/

theorem regs_eq_of_readReg {s t : State} (h : ∀ i, t.readReg i = s.readReg i) : t.regs = s.regs :=
  Vector.ext fun i hi => h (BitVec.ofFin ⟨i, hi⟩)

/-- Each value that Reset computes from an old one is a fixed point of its function; the others are constants. -/
theorem resetEngine_idem (s : State) : resetEngine (resetEngine s) = resetEngine s := by
  have hregs : (resetEngine (resetEngine s)).regs = (resetEngine s).regs :=
    regs_eq_of_readReg fun i => by
      simp only [resetEngine_readReg, resetEngine_params, resetRegister_idem]
  calc resetEngine (resetEngine s)
    _ = { resetEngine s with
          regs := (resetEngine (resetEngine s)).regs
          mar := resetUnlistedValue s.params (resetUnlistedValue s.params s.mar)
          rxs := resetUnlistedValue s.params (resetUnlistedValue s.params s.rxs)
          txs := resetUnlistedValue s.params (resetUnlistedValue s.params s.txs) } := rfl
    _ = resetEngine s := by
      rw [hregs, resetUnlistedValue_idem, resetUnlistedValue_idem, resetUnlistedValue_idem]
      rfl

/-- The creation state is what a Reset makes of registers that hold 0, under either RESET_UNLISTED. -/
theorem creation_eq_resetEngine (p : Params) :
    State.creation p = resetEngine { State.creation p with regs := Vector.replicate 16 0 } := by
  have hregs : creationRegisters p =
      Vector.ofFn fun i => resetRegister p (BitVec.ofFin i) ((Vector.replicate 16 0).get i) := by
    simp [creationRegisters, Vector.get_eq_getElem]
  simp only [State.creation, resetEngine, resetUnlistedValue_zero, hregs]

theorem resetEngine_creation (p : Params) : resetEngine (State.creation p) = State.creation p := by
  rw [creation_eq_resetEngine, resetEngine_idem]

theorem wf_creation {p : Params} (h : p.wf = true) : State.wf (State.creation p) = true := by
  have hconst : constantsHold (State.creation p) = true := by
    rw [← resetEngine_creation]
    exact constantsHold_resetEngine (s := State.creation p) h
  exact (wf_iff _).mpr ⟨h, hconst, (rxsLegal_iff _).mpr (.inl rfl), (txsLegal_iff _).mpr (.inl rfl),
    (queuesBounded_iff _).mpr ⟨Nat.zero_le _, Nat.zero_le _⟩, wf_mem_creation p, wf_cs_creation p⟩

theorem wf_referenceParams : referenceParams.wf = true := by decide

/-! ## The fault record (R294) -/

/-- Reset alone writes the fault record. -/
theorem hostOp_fault {op : HostOp} (h : op ≠ .reset) (s : State) : (hostOp op s).1.fault = s.fault := by
  cases op with
  | reset => exact absurd rfl h
  | loadControlStore ws => simp only [hostOp, loadControlStore]; split <;> rfl
  | loadMemory ws => simp only [hostOp, loadMemory]; split <;> rfl
  | enterRun => simp only [hostOp, enterRun]; split <;> rfl
  | toggleBreakpoint m => simp only [hostOp, toggleBreakpoint]; split <;> rfl
  | rxPush b => simp only [hostOp, rxPush]; split <;> rfl
  | txPop => simp only [hostOp, txPop]; split <;> rfl
  | zeroMemory | zeroControlStore | setDesired => rfl

/-- A Step that answers a next state started without a recorded fault. -/
theorem fault_keptBySteps (f : Fault) : KeptBySteps (·.fault = some f) where
  step_next s t hstep hs := by
    rw [step_recorded hs] at hstep
    cases hstep
  loop_fields _ _ _ hs := hs

end Sys2Proof.Machine

namespace Sys2Proof.Proofs

open Sys2Proof.Machine

/-- Settles O9: with a fault recorded no Step answers a next state, and of the host's operations only Reset writes the
record. -/
theorem recordedFaultStaysUntilReset : Obligations.RecordedFaultStaysUntilReset := by
  refine fun s f hf => ⟨step_recorded hf, fun e he => (fault_keptBySteps f).event (fun op hop => ?_) hf, rfl⟩
  subst hop
  exact (hostOp_fault (fun hreset => he (congrArg Event.host hreset)) s).trans hf

/-- Settles O47, register by register; AC, IR and TIR follow RESET_UNLISTED as MAR, RXS and TXS do. -/
theorem resetSetsTheListedState : Obligations.ResetSetsTheListedState := by
  intro s hwf
  obtain ⟨hzero, hone, hmone, hamask, hsmask⟩ := (constantsHold_iff _).mp (constantsHold_resetEngine hwf)
  have hac := resetEngine_readReg_unlisted hwf (.inl rfl)
  have hir := resetEngine_readReg_unlisted hwf (.inr (.inl rfl))
  have htir := resetEngine_readReg_unlisted hwf (.inr (.inr rfl))
  refine ⟨rfl, ?_, ?_, hzero, hone, hmone, hamask, hsmask, fun i hi => ?_, rfl, rfl, rfl, rfl, rfl, rfl,
    fun hpolicy => ?_, fun hpolicy => ?_⟩
  · rw [resetEngine_readReg, resetRegister_pc]
  · rw [resetEngine_readReg, resetRegister_sp hwf]
  · rw [resetEngine_readReg, resetRegister_scratch hi]
  · simp only [hac, hir, htir, resetEngine_mar, resetEngine_rxs, resetEngine_txs,
      resetUnlistedValue_of_zero hpolicy, and_self]
  · simp only [hac, hir, htir, resetEngine_mar, resetEngine_rxs, resetEngine_txs,
      resetUnlistedValue_of_preserve hpolicy, and_self]

/-- Settles O48: Reset is a projection, and Desired = HALT is what the next turn tests. -/
theorem resetLeavesTheRestAlone : Obligations.ResetLeavesTheRestAlone := by
  intro s
  refine ⟨resetEngine_runState s, resetEngine_mem s, resetEngine_cs s, resetEngine_rxq s, resetEngine_txq s,
    resetEngine_idem s, fun hwait => ?_⟩
  have hawaiting : (resetEngine s).awaitingSpace = false := (resetEngine_awaitingSpace s).trans hwait
  exact runTurn_halted hawaiting (resetEngine_desired s)

/-- Settles O49: the creation state is itself a Reset's result, so that another Reset leaves it. -/
theorem creationStateIsAsAfterReset : Obligations.CreationStateIsAsAfterReset :=
  ⟨fun p => ⟨fun _ => rfl, fun _ => rfl, rfl, rfl, rfl, rfl, resetEngine_creation p⟩, rfl⟩

/-- Settles O59: the constants hold since a Reset leaves the creation state, and the rest is empty or 0. -/
theorem resetMeetsTheInvariant : Obligations.ResetMeetsTheInvariant :=
  ⟨wf_creation wf_referenceParams, fun _ => wf_creation⟩

end Sys2Proof.Proofs
